-- ==== Sys2Proof/Word.lean ====
section
/-! DEFINITION. The byte and the byte sequence of the frame codec (00_scope.md R5, R10, R11).

The block has no word size of its own: numeric fields are 1 to 4 bytes wide and each takes the `BitVec`
of its width where it is used. -/

namespace Sys2Proof

/-- One byte of a buffer (R11). -/
abbrev Byte := BitVec 8

/-- A finite byte sequence, offset 0 first (R11: `Bytes`). Its length is a natural number (R10). -/
abbrev Bytes := List Byte

end Sys2Proof
end

