-- ==== Sys2Proof/Config.lean ====
section
/-! DEFINITION. What one block of this design fixes and the spec leaves OPEN (00_scope.md R6, R7, R8), and the
free values of a buffer race (20_memory.md R42).

`Params` is plain data and stands in the state (log entry 1): a claim about every state is a claim about every
setting of the two plain parameters. The external body unit `P_EXT_CODEC` is a triple of functions, so it
stands here: two opaque constants and the length the spec makes of the second (log entry 2). -/

namespace Sys2Proof

/-- The two plain parameters of a block, fixed for its life (R104). -/
structure Params where
  /-- `P_MAX_FRAME` (R6): the largest input buffer and the largest append, in bytes; `none` is infinity. -/
  maxFrame : Option Nat
  /-- `P_REQN_PREFIX` (R8): whether RequestStream and RequestChannel bodies begin with a 4-byte count. -/
  reqnPrefix : Bool
  deriving DecidableEq, Repr

/-- The external kinds (R14): bodies whose layout no source gives. -/
inductive ExtKind where
  | setup | lease | keepalive | resume | resumeOk
  deriving DecidableEq, Repr

/-- A value of the opaque type `Ext_k` (R7, R18). The block never looks inside it. DESIGN CHOICE (log entry 2):
a bare token, so that a body is plain data; which token stands for which contents is the external unit's. -/
structure ExtValue where
  token : Nat
  deriving DecidableEq, Repr, Inhabited

/-- The causes the external unit may report: the source's (b) and (c) only (R7). -/
inductive ExtCause where
  | lengthOverrun | truncated
  deriving DecidableEq, Repr, Inhabited

/-- What the external unit answers to a decode: a value or a cause (R7). -/
inductive ExtDecoded where
  | value (v : ExtValue)
  | error (cause : ExtCause)
  deriving DecidableEq, Repr, Inhabited

/-- Which of the caller's two buffers a race is about (R42). -/
inductive RacedBuffer where
  | input | output
  deriving DecidableEq, Repr

namespace Config

/-- `P_EXT_CODEC.extDecode(k, flag10, bytes)` (R7): OPEN, so without a body. -/
opaque extDecode : ExtKind → BitVec 10 → Bytes → ExtDecoded

/-- `P_EXT_CODEC.extEncode(k, v)` (R7): OPEN, so without a body. -/
opaque extEncode : ExtKind → ExtValue → Bytes

/-- `P_EXT_CODEC.extLength(k, v)`. R7 assumes `extLength(k, v) = |extEncode(k, v)|` and nothing else, so the
model defines it so. -/
def extLength (k : ExtKind) (v : ExtValue) : Nat := (extEncode k v).length

/-- The free values of a race (R42: "any value"): the byte at an offset of a buffer that another agent wrote
while the n-th raced command ran. No body: nothing in Lean can say what it is (log entry 9). -/
opaque racedByte : Nat → RacedBuffer → Nat → Byte

end Config

end Sys2Proof
end

