-- ==== Sys2Proof/Syntax.lean ====
section
/-! DEFINITION. The value types of the interface (10_state.md R14 to R22), the operand fields of a command
(30_encoding.md R52), and `Instr`: one constructor per row of spec/opcode_table.json.

The table has two encodings in it (30_encoding.md): the wire format, whose rows FRAME_… are the frames FRM_DEC
reads, and the command interface, whose rows are the 21 commands and the reserved command codes. -/

namespace Sys2Proof

/-- The six payload kinds (R14), in code order. -/
inductive PayloadKind where
  | requestResponse | requestFnf | requestStream | requestChannel | payload | metadataPush
  deriving DecidableEq, Repr

/-- The closed enumeration of the fourteen frame kinds, in code order (R14). -/
inductive Kind where
  | setup | lease | keepalive | requestResponse | requestFnf | requestStream | requestChannel
  | requestN | cancel | payload | error | metadataPush | resume | resumeOk
  deriving DecidableEq, Repr

/-- `Body` (R15): one variant per kind, each with only its own fields (R16, R17, R18). `initialN` is present
exactly when `P_REQN_PREFIX` is true (R16); `Body.typed` says so. -/
inductive Body where
  | setup (value : ExtValue)
  | lease (value : ExtValue)
  | keepalive (value : ExtValue)
  | requestResponse (metadata data : Option Bytes)
  | requestFnf (metadata data : Option Bytes)
  | requestStream (initialN : Option (BitVec 32)) (metadata data : Option Bytes)
  | requestChannel (initialN : Option (BitVec 32)) (metadata data : Option Bytes)
  | requestN (n : BitVec 32)
  | cancel
  | payload (metadata data : Option Bytes)
  | error (code : BitVec 32) (message : Bytes)
  | metadataPush (metadata data : Option Bytes)
  | resume (value : ExtValue)
  | resumeOk (value : ExtValue)
  deriving DecidableEq, Repr

/-- `Frame` (R19): the record flag is 16 bits wide, only its low 10 bits reach the wire. -/
structure Frame where
  streamId : BitVec 32
  flag : BitVec 16
  body : Body
  deriving DecidableEq, Repr

/-- `Header` (R21): `type` ranges over all 64 codes. -/
structure Header where
  streamId : BitVec 32
  type : BitVec 6
  flag : BitVec 10
  deriving DecidableEq, Repr

/-- One typed operand field of a command (R52). `input` is the caller's input buffer IN, whose length is N
(R31); `bytes` is a byte sequence handed over by value. -/
inductive Operand where
  | u32 (v : BitVec 32)
  | u16 (v : BitVec 16)
  | u6 (v : BitVec 6)
  | kind (k : Kind)
  | input (b : Bytes)
  | bytes (b : Bytes)
  | optBytes (o : Option Bytes)
  | body (b : Body)
  | frame (f : Frame)
  deriving DecidableEq, Repr

/-- One command as the caller issues it (R52): the 5-bit code, its operand fields in the order of R52's table,
and the caller's buffers. `out` is the OUT operand: `some b` hands over an output buffer that holds `b`, `none`
leaves the buffer that is in place (log entry 5). The two marks say that another agent writes IN or OUT while
the command runs (R42, log entry 9). -/
structure Request where
  code : BitVec 5
  operands : List Operand
  out : Option Bytes := none
  racedIn : Bool := false
  racedOut : Bool := false
  deriving DecidableEq, Repr

/-- The instruction an opcode-table row stands for. A FRAME_… row is one wire frame (R44): its stream id, its
10 flag bits and its body bytes. The rows of one mnemonic (FRAME_ILLEGAL, CMD_RESERVED) have a constructor
each, which keeps the bits the row leaves free. -/
inductive Instr where
  | frameSetup (sid : BitVec 32) (flags : BitVec 10) (body : Bytes)
  | frameLease (sid : BitVec 32) (flags : BitVec 10) (body : Bytes)
  | frameKeepalive (sid : BitVec 32) (flags : BitVec 10) (body : Bytes)
  | frameRequestResponse (sid : BitVec 32) (flags : BitVec 10) (body : Bytes)
  | frameRequestFnf (sid : BitVec 32) (flags : BitVec 10) (body : Bytes)
  | frameRequestStream (sid : BitVec 32) (flags : BitVec 10) (body : Bytes)
  | frameRequestChannel (sid : BitVec 32) (flags : BitVec 10) (body : Bytes)
  | frameRequestN (sid : BitVec 32) (flags : BitVec 10) (body : Bytes)
  | frameCancel (sid : BitVec 32) (flags : BitVec 10) (body : Bytes)
  | framePayload (sid : BitVec 32) (flags : BitVec 10) (body : Bytes)
  | frameError (sid : BitVec 32) (flags : BitVec 10) (body : Bytes)
  | frameMetadataPush (sid : BitVec 32) (flags : BitVec 10) (body : Bytes)
  | frameResume (sid : BitVec 32) (flags : BitVec 10) (body : Bytes)
  | frameResumeOk (sid : BitVec 32) (flags : BitVec 10) (body : Bytes)
  /-- type code 0x00 -/
  | frameIllegal00 (sid : BitVec 32) (flags : BitVec 10) (body : Bytes)
  /-- type code 0x0F -/
  | frameIllegal0F (sid : BitVec 32) (flags : BitVec 10) (body : Bytes)
  /-- type codes 0x10 to 0x1F: `low` is the code's low 4 bits -/
  | frameIllegal10 (low : BitVec 4) (sid : BitVec 32) (flags : BitVec 10) (body : Bytes)
  /-- type codes 0x20 to 0x3F: `low` is the code's low 5 bits -/
  | frameIllegal20 (low : BitVec 5) (sid : BitVec 32) (flags : BitVec 10) (body : Bytes)
  | hdrEnc (sid : BitVec 32) (type : BitVec 6) (flag : BitVec 16)
  | hdrDec (inp : Bytes)
  | hasNext (flag : BitVec 16)
  | hasComplete (flag : BitVec 16)
  | typeOf (body : Body)
  | plDec (flag : BitVec 16) (inp : Bytes)
  | plEnc (md data : Option Bytes)
  | plLen (md data : Option Bytes)
  | bodyDec (kind : Kind) (flag : BitVec 16) (inp : Bytes)
  | bodyEnc (body : Body)
  | bodyLen (body : Body)
  | frmDec (inp : Bytes)
  | frmEnc (frame : Frame)
  | frmWrite (frame : Frame)
  | frmLen (frame : Frame)
  | bInit (kind : Kind) (sid : BitVec 32) (flag : BitVec 16) (initn : BitVec 32)
  | bSetMd (m : Bytes)
  | bSetData (d : Bytes)
  | bSetAll (data md : Option Bytes)
  | bBuild
  | split (body : Body)
  /-- command code 0x00 -/
  | cmdReserved00
  /-- command codes 0x16 and 0x17: `low` is the code's low bit -/
  | cmdReserved16 (low : BitVec 1)
  /-- command codes 0x18 to 0x1F: `low` is the code's low 3 bits -/
  | cmdReserved18 (low : BitVec 3)
  deriving DecidableEq, Repr

end Sys2Proof
end

