-- ==== Sys2Proof/Machine/Operands.lean ====
section
/-! DEFINITION. The operand forms: the classes of kinds (10_state.md R14), the parts of a body (R15 to R18), and when an
operand is of its field's type (30_encoding.md R53). -/

namespace Sys2Proof

/-- The kind behind a payload kind. -/
def PayloadKind.toKind : PayloadKind → Kind
  | .requestResponse => .requestResponse
  | .requestFnf => .requestFnf
  | .requestStream => .requestStream
  | .requestChannel => .requestChannel
  | .payload => .payload
  | .metadataPush => .metadataPush

/-- The payload kind a kind is, if it is one (R14). -/
def Kind.payload? : Kind → Option PayloadKind
  | .requestResponse => some .requestResponse
  | .requestFnf => some .requestFnf
  | .requestStream => some .requestStream
  | .requestChannel => some .requestChannel
  | .payload => some .payload
  | .metadataPush => some .metadataPush
  | .setup => none
  | .lease => none
  | .keepalive => none
  | .requestN => none
  | .cancel => none
  | .error => none
  | .resume => none
  | .resumeOk => none

/-- The kinds whose bodies may begin with an initial request count (R8, R16). -/
def PayloadKind.hasCount : PayloadKind → Bool
  | .requestStream => true
  | .requestChannel => true
  | .requestResponse => false
  | .requestFnf => false
  | .payload => false
  | .metadataPush => false

/-- The kind of a body: exactly one variant is active (R15). -/
def Body.kind : Body → Kind
  | .setup _ => .setup
  | .lease _ => .lease
  | .keepalive _ => .keepalive
  | .requestResponse _ _ => .requestResponse
  | .requestFnf _ _ => .requestFnf
  | .requestStream _ _ _ => .requestStream
  | .requestChannel _ _ _ => .requestChannel
  | .requestN _ => .requestN
  | .cancel => .cancel
  | .payload _ _ => .payload
  | .error _ _ => .error
  | .metadataPush _ _ => .metadataPush
  | .resume _ => .resume
  | .resumeOk _ => .resumeOk

/-- The `metadata` and `data` of a payload-kind body (R16); `none` for every other body. -/
def Body.parts? : Body → Option (Option Bytes × Option Bytes)
  | .requestResponse md data => some (md, data)
  | .requestFnf md data => some (md, data)
  | .requestStream _ md data => some (md, data)
  | .requestChannel _ md data => some (md, data)
  | .payload md data => some (md, data)
  | .metadataPush md data => some (md, data)
  | .setup _ => none
  | .lease _ => none
  | .keepalive _ => none
  | .requestN _ => none
  | .cancel => none
  | .error _ _ => none
  | .resume _ => none
  | .resumeOk _ => none

/-- The metadata a body holds, if it is of a payload kind and has any. -/
def Body.metadata (b : Body) : Option Bytes :=
  match b.parts? with
  | some (md, _) => md
  | none => none

/-- A payload-kind body (R16). The count goes into the two kinds that may have one, no other. -/
def PayloadKind.body (k : PayloadKind) (initialN : Option (BitVec 32)) (md data : Option Bytes) : Body :=
  match k with
  | .requestResponse => .requestResponse md data
  | .requestFnf => .requestFnf md data
  | .requestStream => .requestStream initialN md data
  | .requestChannel => .requestChannel initialN md data
  | .payload => .payload md data
  | .metadataPush => .metadataPush md data

/-- A body is of type `Body` under the parameters (R16): the initial count is there exactly when
`P_REQN_PREFIX` is true. DEDUCED (log entry 6): a body without its count, or with one too many, is an operand
that is not of its field's type (R53). -/
def Body.typed (p : Params) : Body → Bool
  | .requestStream n _ _ => n.isSome == p.reqnPrefix
  | .requestChannel n _ _ => n.isSome == p.reqnPrefix
  | .setup _ => true
  | .lease _ => true
  | .keepalive _ => true
  | .requestResponse _ _ => true
  | .requestFnf _ _ => true
  | .requestN _ => true
  | .cancel => true
  | .payload _ _ => true
  | .error _ _ => true
  | .metadataPush _ _ => true
  | .resume _ => true
  | .resumeOk _ => true

end Sys2Proof
end

