-- ==== Sys2Proof/WellFormed.lean ====
section
/-! DEFINITION. When an instruction is well formed: every operand is of its field's type (30_encoding.md R53). The widths
are in the types; what is left is the three checks that R53 and R16 name. -/

namespace Sys2Proof

/-- Well-formedness under the parameters of the block. B_INIT takes a payload kind (R83), SPLIT a payload-kind
body (R65), and a body operand has its count exactly when `P_REQN_PREFIX` says so (R16). -/
def Instr.WellFormed (p : Params) : Instr → Bool
  | .frameSetup _ _ _ => true
  | .frameLease _ _ _ => true
  | .frameKeepalive _ _ _ => true
  | .frameRequestResponse _ _ _ => true
  | .frameRequestFnf _ _ _ => true
  | .frameRequestStream _ _ _ => true
  | .frameRequestChannel _ _ _ => true
  | .frameRequestN _ _ _ => true
  | .frameCancel _ _ _ => true
  | .framePayload _ _ _ => true
  | .frameError _ _ _ => true
  | .frameMetadataPush _ _ _ => true
  | .frameResume _ _ _ => true
  | .frameResumeOk _ _ _ => true
  | .frameIllegal00 _ _ _ => true
  | .frameIllegal0F _ _ _ => true
  | .frameIllegal10 _ _ _ _ => true
  | .frameIllegal20 _ _ _ _ => true
  | .hdrEnc _ _ _ => true
  | .hdrDec _ => true
  | .hasNext _ => true
  | .hasComplete _ => true
  | .typeOf body => body.typed p
  | .plDec _ _ => true
  | .plEnc _ _ => true
  | .plLen _ _ => true
  | .bodyDec _ _ _ => true
  | .bodyEnc body => body.typed p
  | .bodyLen body => body.typed p
  | .frmDec _ => true
  | .frmEnc frame => frame.body.typed p
  | .frmWrite frame => frame.body.typed p
  | .frmLen frame => frame.body.typed p
  | .bInit kind _ _ _ => kind.payload?.isSome
  | .bSetMd _ => true
  | .bSetData _ => true
  | .bSetAll _ _ => true
  | .bBuild => true
  | .split body => body.parts?.isSome && body.typed p
  | .cmdReserved00 => true
  | .cmdReserved16 _ => true
  | .cmdReserved18 _ => true

end Sys2Proof
end

