-- ==== Sys2Proof/Decode.lean ====
section
/-! DEFINITION. Both encodings of the block, decoder first and encoder after it (30_encoding.md R44 to R53): the byte order
helpers (20_memory.md R33, R34), the type-and-flags word (R45), the type code table (R14, R47), the frame rows, and the
command codes with their operand fields (R52). -/

namespace Sys2Proof

/-! ### Byte order (R12, R33) -/

/-- The unsigned big-endian value of a byte sequence: the byte at the lowest offset is the most significant. -/
def beValue (b : Bytes) : Nat := b.foldl (fun acc x => acc * 256 + x.toNat) 0

/-- `Slice(B, a, b)` (R12): the bytes at offsets a to b-1. -/
def slice (b : Bytes) (lo hi : Nat) : Bytes := (b.drop lo).take (hi - lo)

/-- `MemRead(B, off, n)` (R12): the big-endian value of `B[off..off+n)`. Callers check the bounds first (R36). -/
def memRead (b : Bytes) (off n : Nat) : Nat := beValue (slice b off (off + n))

/-- `be_n(v)` (R12): the n-byte big-endian sequence of v. -/
def be : Nat → Nat → Bytes
  | 0, _ => []
  | n + 1, v => BitVec.ofNat 8 (v / 256 ^ n) :: be n v

/-! ### The type-and-flags word (R45) -/

/-- `(frame_type_code << 10) | (flag & 0x03FF)`. -/
def packWord (type : BitVec 6) (flag : BitVec 16) : BitVec 16 :=
  (type.setWidth 16 <<< 10) ||| (flag &&& 0x03FF#16)

/-- `word >> 10`, the top 6 bits. -/
def wordType (w : BitVec 16) : BitVec 6 := (w >>> 10).setWidth 6

/-- `word & 0x03FF`, the low 10 bits. -/
def wordFlag (w : BitVec 16) : BitVec 10 := (w &&& 0x03FF#16).setWidth 10

/-- The header in the first six bytes of a buffer (R44, R50). Callers check that they are there (R36). -/
def readHeader (b : Bytes) : Header :=
  let word := BitVec.ofNat 16 (memRead b 4 2)
  { streamId := BitVec.ofNat 32 (memRead b 0 4), type := wordType word, flag := wordFlag word }

/-- The six header bytes (R44, R56). -/
def writeHeader (sid : BitVec 32) (type : BitVec 6) (flag : BitVec 16) : Bytes :=
  be 4 sid.toNat ++ be 2 (packWord type flag).toNat

/-! ### The type codes (R14, R47) -/

/-- The 6-bit type code of a kind (R14). -/
def Kind.code : Kind → BitVec 6
  | .setup => 0x01#6
  | .lease => 0x02#6
  | .keepalive => 0x03#6
  | .requestResponse => 0x04#6
  | .requestFnf => 0x05#6
  | .requestStream => 0x06#6
  | .requestChannel => 0x07#6
  | .requestN => 0x08#6
  | .cancel => 0x09#6
  | .payload => 0x0A#6
  | .error => 0x0B#6
  | .metadataPush => 0x0C#6
  | .resume => 0x0D#6
  | .resumeOk => 0x0E#6

/-- The kind a type code names (R47); the codes 0x00 and 0x0F to 0x3F name none. -/
def kindOf (t : BitVec 6) : Option Kind :=
  match t.toNat with
  | 0x01 => some .setup
  | 0x02 => some .lease
  | 0x03 => some .keepalive
  | 0x04 => some .requestResponse
  | 0x05 => some .requestFnf
  | 0x06 => some .requestStream
  | 0x07 => some .requestChannel
  | 0x08 => some .requestN
  | 0x09 => some .cancel
  | 0x0A => some .payload
  | 0x0B => some .error
  | 0x0C => some .metadataPush
  | 0x0D => some .resume
  | 0x0E => some .resumeOk
  | _ => none

/-! ### The decoder -/

/-- Why no instruction is read. -/
inductive DecodeError where
  /-- fewer than six bytes where a frame's header is due (R92) -/
  | headerTruncated
  /-- the operand fields of this command are not of their types (R53) -/
  | badOperand (mnemonic : String)
  deriving DecidableEq, Repr

/-- The frame row of a kind. -/
def frameOfKind (k : Kind) (sid : BitVec 32) (flags : BitVec 10) (body : Bytes) : Instr :=
  match k with
  | .setup => .frameSetup sid flags body
  | .lease => .frameLease sid flags body
  | .keepalive => .frameKeepalive sid flags body
  | .requestResponse => .frameRequestResponse sid flags body
  | .requestFnf => .frameRequestFnf sid flags body
  | .requestStream => .frameRequestStream sid flags body
  | .requestChannel => .frameRequestChannel sid flags body
  | .requestN => .frameRequestN sid flags body
  | .cancel => .frameCancel sid flags body
  | .payload => .framePayload sid flags body
  | .error => .frameError sid flags body
  | .metadataPush => .frameMetadataPush sid flags body
  | .resume => .frameResume sid flags body
  | .resumeOk => .frameResumeOk sid flags body

/-- The FRAME_ILLEGAL row of a type code that names no kind (R54): 0x00, 0x0F, 0x10 to 0x1F, 0x20 to 0x3F. -/
def frameOfIllegal (t : BitVec 6) (sid : BitVec 32) (flags : BitVec 10) (body : Bytes) : Instr :=
  if t = 0x00#6 then .frameIllegal00 sid flags body
  else if t.toNat < 0x10 then .frameIllegal0F sid flags body
  else if t.toNat < 0x20 then .frameIllegal10 (t.setWidth 4) sid flags body
  else .frameIllegal20 (t.setWidth 5) sid flags body

/-- The frame row a wire frame belongs to (R44, R47): every buffer of at least six bytes has one. -/
def decodeFrame (b : Bytes) : Except DecodeError Instr :=
  if b.length < 6 then .error .headerTruncated
  else
    let h := readHeader b
    match kindOf h.type with
    | some k => .ok (frameOfKind k h.streamId h.flag (b.drop 6))
    | none => .ok (frameOfIllegal h.type h.streamId h.flag (b.drop 6))

/-- The command of a 5-bit code and its operand fields, in the order of R52's table. A reserved code is an
instruction of its own whatever fields come with it (R53); fields that are not of the command's types are
rejected by the command's name. -/
def decodeCommand (code : BitVec 5) (ops : List Operand) : Except DecodeError Instr :=
  match code.toNat with
  | 0x00 => .ok .cmdReserved00
  | 0x01 => match ops with
    | [.u32 sid, .u6 type, .u16 flag] => .ok (.hdrEnc sid type flag)
    | _ => .error (.badOperand "HDR_ENC")
  | 0x02 => match ops with
    | [.input b] => .ok (.hdrDec b)
    | _ => .error (.badOperand "HDR_DEC")
  | 0x03 => match ops with
    | [.u16 flag] => .ok (.hasNext flag)
    | _ => .error (.badOperand "HAS_NEXT")
  | 0x04 => match ops with
    | [.u16 flag] => .ok (.hasComplete flag)
    | _ => .error (.badOperand "HAS_COMPLETE")
  | 0x05 => match ops with
    | [.body b] => .ok (.typeOf b)
    | _ => .error (.badOperand "TYPE_OF")
  | 0x06 => match ops with
    | [.u16 flag, .input b] => .ok (.plDec flag b)
    | _ => .error (.badOperand "PL_DEC")
  | 0x07 => match ops with
    | [.optBytes md, .optBytes data] => .ok (.plEnc md data)
    | _ => .error (.badOperand "PL_ENC")
  | 0x08 => match ops with
    | [.optBytes md, .optBytes data] => .ok (.plLen md data)
    | _ => .error (.badOperand "PL_LEN")
  | 0x09 => match ops with
    | [.kind k, .u16 flag, .input b] => .ok (.bodyDec k flag b)
    | _ => .error (.badOperand "BODY_DEC")
  | 0x0A => match ops with
    | [.body b] => .ok (.bodyEnc b)
    | _ => .error (.badOperand "BODY_ENC")
  | 0x0B => match ops with
    | [.body b] => .ok (.bodyLen b)
    | _ => .error (.badOperand "BODY_LEN")
  | 0x0C => match ops with
    | [.input b] => .ok (.frmDec b)
    | _ => .error (.badOperand "FRM_DEC")
  | 0x0D => match ops with
    | [.frame f] => .ok (.frmEnc f)
    | _ => .error (.badOperand "FRM_ENC")
  | 0x0E => match ops with
    | [.frame f] => .ok (.frmWrite f)
    | _ => .error (.badOperand "FRM_WRITE")
  | 0x0F => match ops with
    | [.frame f] => .ok (.frmLen f)
    | _ => .error (.badOperand "FRM_LEN")
  | 0x10 => match ops with
    | [.kind k, .u32 sid, .u16 flag, .u32 initn] => .ok (.bInit k sid flag initn)
    | _ => .error (.badOperand "B_INIT")
  | 0x11 => match ops with
    | [.bytes m] => .ok (.bSetMd m)
    | _ => .error (.badOperand "B_SET_MD")
  | 0x12 => match ops with
    | [.bytes d] => .ok (.bSetData d)
    | _ => .error (.badOperand "B_SET_DATA")
  | 0x13 => match ops with
    | [.optBytes data, .optBytes md] => .ok (.bSetAll data md)
    | _ => .error (.badOperand "B_SET_ALL")
  | 0x14 => match ops with
    | [] => .ok .bBuild
    | _ => .error (.badOperand "B_BUILD")
  | 0x15 => match ops with
    | [.body b] => .ok (.split b)
    | _ => .error (.badOperand "SPLIT")
  | 0x16 => .ok (.cmdReserved16 (code.setWidth 1))
  | 0x17 => .ok (.cmdReserved16 (code.setWidth 1))
  | _ => .ok (.cmdReserved18 (code.setWidth 3))

/-- What an instruction is written as: a frame's bytes, or a command's code and operand fields. -/
inductive Encoded where
  | frame (bytes : Bytes)
  | command (code : BitVec 5) (operands : List Operand)
  deriving DecidableEq, Repr

/-- The instruction an encoding stands for. -/
def decode : Encoded → Except DecodeError Instr
  | .frame b => decodeFrame b
  | .command code ops => decodeCommand code ops

/-! ### The encoder -/

/-- The bytes of a frame row: header, then the body bytes (R44). -/
def frameBytes (type : BitVec 6) (sid : BitVec 32) (flags : BitVec 10) (body : Bytes) : Bytes :=
  writeHeader sid type (flags.setWidth 16) ++ body

/-- What an instruction is written as (R44 and R47 for the frames, R52 for the commands). -/
def encode : Instr → Encoded
  | .frameSetup sid f b => .frame (frameBytes 0x01#6 sid f b)
  | .frameLease sid f b => .frame (frameBytes 0x02#6 sid f b)
  | .frameKeepalive sid f b => .frame (frameBytes 0x03#6 sid f b)
  | .frameRequestResponse sid f b => .frame (frameBytes 0x04#6 sid f b)
  | .frameRequestFnf sid f b => .frame (frameBytes 0x05#6 sid f b)
  | .frameRequestStream sid f b => .frame (frameBytes 0x06#6 sid f b)
  | .frameRequestChannel sid f b => .frame (frameBytes 0x07#6 sid f b)
  | .frameRequestN sid f b => .frame (frameBytes 0x08#6 sid f b)
  | .frameCancel sid f b => .frame (frameBytes 0x09#6 sid f b)
  | .framePayload sid f b => .frame (frameBytes 0x0A#6 sid f b)
  | .frameError sid f b => .frame (frameBytes 0x0B#6 sid f b)
  | .frameMetadataPush sid f b => .frame (frameBytes 0x0C#6 sid f b)
  | .frameResume sid f b => .frame (frameBytes 0x0D#6 sid f b)
  | .frameResumeOk sid f b => .frame (frameBytes 0x0E#6 sid f b)
  | .frameIllegal00 sid f b => .frame (frameBytes 0x00#6 sid f b)
  | .frameIllegal0F sid f b => .frame (frameBytes 0x0F#6 sid f b)
  | .frameIllegal10 low sid f b => .frame (frameBytes (0b01#2 ++ low) sid f b)
  | .frameIllegal20 low sid f b => .frame (frameBytes (0b1#1 ++ low) sid f b)
  | .hdrEnc sid type flag => .command 0x01#5 [.u32 sid, .u6 type, .u16 flag]
  | .hdrDec b => .command 0x02#5 [.input b]
  | .hasNext flag => .command 0x03#5 [.u16 flag]
  | .hasComplete flag => .command 0x04#5 [.u16 flag]
  | .typeOf b => .command 0x05#5 [.body b]
  | .plDec flag b => .command 0x06#5 [.u16 flag, .input b]
  | .plEnc md data => .command 0x07#5 [.optBytes md, .optBytes data]
  | .plLen md data => .command 0x08#5 [.optBytes md, .optBytes data]
  | .bodyDec k flag b => .command 0x09#5 [.kind k, .u16 flag, .input b]
  | .bodyEnc b => .command 0x0A#5 [.body b]
  | .bodyLen b => .command 0x0B#5 [.body b]
  | .frmDec b => .command 0x0C#5 [.input b]
  | .frmEnc f => .command 0x0D#5 [.frame f]
  | .frmWrite f => .command 0x0E#5 [.frame f]
  | .frmLen f => .command 0x0F#5 [.frame f]
  | .bInit k sid flag initn => .command 0x10#5 [.kind k, .u32 sid, .u16 flag, .u32 initn]
  | .bSetMd m => .command 0x11#5 [.bytes m]
  | .bSetData d => .command 0x12#5 [.bytes d]
  | .bSetAll data md => .command 0x13#5 [.optBytes data, .optBytes md]
  | .bBuild => .command 0x14#5 []
  | .split b => .command 0x15#5 [.body b]
  | .cmdReserved00 => .command 0x00#5 []
  | .cmdReserved16 low => .command (0b1011#4 ++ low) []
  | .cmdReserved18 low => .command (0b11#2 ++ low) []

/-! ### The opcode table's words -/

/-- The operand fields of a command whose fields are all zero: zero numbers, empty sequences, absent options,
and for a kind, a body or a frame the first kind that needs no external unit (log entry 8). -/
def zeroOperands (code : BitVec 5) : List Operand :=
  match code.toNat with
  | 0x01 => [.u32 0, .u6 0, .u16 0]
  | 0x02 => [.input []]
  | 0x03 => [.u16 0]
  | 0x04 => [.u16 0]
  | 0x05 => [.body (.requestResponse none none)]
  | 0x06 => [.u16 0, .input []]
  | 0x07 => [.optBytes none, .optBytes none]
  | 0x08 => [.optBytes none, .optBytes none]
  | 0x09 => [.kind .requestResponse, .u16 0, .input []]
  | 0x0A => [.body (.requestResponse none none)]
  | 0x0B => [.body (.requestResponse none none)]
  | 0x0C => [.input []]
  | 0x0D => [.frame ⟨0, 0, .requestResponse none none⟩]
  | 0x0E => [.frame ⟨0, 0, .requestResponse none none⟩]
  | 0x0F => [.frame ⟨0, 0, .requestResponse none none⟩]
  | 0x10 => [.kind .requestResponse, .u32 0, .u16 0, .u32 0]
  | 0x11 => [.bytes []]
  | 0x12 => [.bytes []]
  | 0x13 => [.optBytes none, .optBytes none]
  | 0x14 => []
  | 0x15 => [.body (.requestResponse none none)]
  | _ => []

/-- The frame whose type-and-flags word is w, on stream 0 with an empty body. -/
def tableFrame (w : Nat) : Bytes := be 4 0 ++ be 2 w

/-- What the table's word w stands for: a row of one byte is a command code, a row of 16 bits a type-and-flags
word. A command code has 5 bits, so a byte of 32 or more is none. -/
def encodedOfTable (nbits w : Nat) : Option Encoded :=
  if nbits ≤ 8 then
    if w < 32 then some (.command (BitVec.ofNat 5 w) (zeroOperands (BitVec.ofNat 5 w))) else none
  else if nbits ≤ 16 then
    if w < 65536 then some (.frame (tableFrame w)) else none
  else none

/-- The instruction the decoder reads from a word of the opcode table. -/
def decodeTableWord (nbits w : Nat) : Option Instr :=
  match encodedOfTable nbits w with
  | some e =>
    match decode e with
    | .ok i => some i
    | .error _ => none
  | none => none

end Sys2Proof
end

