-- ==== Sys2Proof/Machine/State.lean ====
section
/-! DEFINITION. Everything the spec gives the machine: the builder registers (10_state.md R25), the status registers (R26,
R27), the sticky marks (R28), the parameters (00_scope.md R6, R8), and on the caller's side the output buffer (20_memory.md
R30), the events issued and not yet taken (R41) and the outcome last returned (00_scope.md R13). -/

namespace Sys2Proof.Machine

/-- The causes of FrameDecodeError (R22, R89). -/
inductive Cause where
  | illegalFrameType | lengthOverrun | truncated
  deriving DecidableEq, Repr

/-- `ErrRec` (R22): `hdr` is there exactly when the six header bytes were read before the error was found. -/
structure ErrRec where
  cause : Cause
  hdr : Option Header
  deriving DecidableEq, Repr

/-- The spec's model faults (R96): outcomes of a command, after which the machine goes on. -/
inductive FaultName where
  | encOversizeMetadata
  deriving DecidableEq, Repr

/-- The spec's refusals (R97): outcomes of a command, after which the machine goes on. -/
inductive RefuseName where
  | reservedCommand | badOperand | bufferTooLarge | builderBusy | noBuilder
  deriving DecidableEq, Repr

/-- The values an `OK` outcome may put into `RES` (R26). -/
inductive Value where
  | frame (f : Frame)
  | header (h : Header)
  | body (b : Body)
  | bytes (b : Bytes)
  | natural (n : Nat)
  | bit (b : Bool)
  | typeCode (c : BitVec 6)
  | pair (fst snd : Option Bytes)
  deriving DecidableEq, Repr

/-- The four outcomes of a command (R13). `ok none` is the `OK` of a command that returns no value. -/
inductive CmdOutcome where
  | ok (v : Option Value)
  | err (e : ErrRec)
  | fault (f : FaultName)
  | refuse (r : RefuseName)
  deriving DecidableEq, Repr

/-- `STATUS` (R26): `idle` means no command since reset. -/
inductive Status where
  | idle | ok | err | fault | refuse
  deriving DecidableEq, Repr

/-- What the outside does to the block: issue a command (R52), or reset it (R102). -/
inductive Event where
  | command (r : Request)
  | reset
  deriving DecidableEq, Repr

structure State where
  /-- the block's parameters (R6, R8), fixed for its life (R104); log entry 1 -/
  params : Params
  /-- `BLD_VALID` (R25): a builder is open -/
  bldValid : Bool
  /-- `BLD_KIND` (R25) -/
  bldKind : PayloadKind
  /-- `BLD_SID` (R25) -/
  bldSid : BitVec 32
  /-- `BLD_FLAG` (R25) -/
  bldFlag : BitVec 16
  /-- `BLD_MD` (R25) -/
  bldMd : Option Bytes
  /-- `BLD_DATA` (R25) -/
  bldData : Option Bytes
  /-- `BLD_INITN` (R25): present only when `P_REQN_PREFIX` is true; otherwise nothing reads or writes it -/
  bldInitn : BitVec 32
  /-- `STATUS` (R26) -/
  status : Status
  /-- `RES` (R26) -/
  res : Option Value
  /-- `ERRREC` (R27) -/
  errrec : Option ErrRec
  /-- `FAULTED` (R28) -/
  faulted : Bool
  /-- `REFUSED` (R28) -/
  refused : Bool
  /-- the bytes of the caller's output buffer OUT (R30, R37); log entry 5 -/
  out : Bytes
  /-- the outcome the last command returned to its caller (R13), with the name R26 has no place for; log entry 4 -/
  outcome : Option CmdOutcome
  /-- the events issued and not yet taken, oldest first (R41); log entry 3 -/
  port : List Event
  /-- the model's own counter of raced commands, which the free values of a race are applied to (R42); log entry 9 -/
  races : Nat
  deriving DecidableEq, Repr

/-- Reasons for the machine itself to stop with a fault: there is none. Every command of every operand ends
with one of the four outcomes of R13, and the block is then ready for the next (R95; 93_implementation_defined.md:
"No behaviour is treated as `stuck`"). The spec's own FAULT outcome is `CmdOutcome.fault`, a next state. -/
inductive Fault
  deriving DecidableEq, Repr

/-- Reasons for the machine to have no meaning for an instruction. The spec's own REFUSE outcome is
`CmdOutcome.refuse`, a next state. -/
inductive Refusal where
  /-- an instruction that has no meaning in this model yet: no arm of `exec` answers it; safe -/
  | notModelled (mnemonic : String)
  deriving DecidableEq, Repr

/-- The machine right after reset (R25 to R28, R102): the values the spec gives, and for the builder registers
it leaves unspecified zero, absent and the first payload kind (log entry 7, DESIGN CHOICE). The parameters are
those of the spec's test vectors (log entry 1, DESIGN CHOICE): no size limit and no count prefix. Nothing has
been issued, and the caller's output buffer is empty. -/
def State.reset : State where
  params := { maxFrame := none, reqnPrefix := false }
  bldValid := false
  bldKind := .requestResponse
  bldSid := 0
  bldFlag := 0
  bldMd := none
  bldData := none
  bldInitn := 0
  status := .idle
  res := none
  errrec := none
  faulted := false
  refused := false
  out := []
  outcome := none
  port := []
  races := 0

end Sys2Proof.Machine
end

