-- ==== Sys2Proof/Machine/Flags.lean ====
section
/-! DEFINITION. The flag bits of a frame (30_encoding.md R46, R55), the tests and updates of them that commands make, and
the cause codes (60_exceptions.md R89) and Error code names (42_bodies.md R76). The block has no condition codes (10_state.md
R23). -/

namespace Sys2Proof.Machine

/-- NEXT, bit 5. -/
def flagNext : BitVec 16 := 0x0020#16
/-- COMPLETE, bit 6; LEASE "for Lease frames". -/
def flagComplete : BitVec 16 := 0x0040#16
/-- FOLLOWS, bit 7; RESUME "for Resume", RESPOND "for some request types". -/
def flagFollows : BitVec 16 := 0x0080#16
/-- METADATA (FLAG_METADATA), bit 8: the one flag bit the block gives meaning to. -/
def flagMetadata : BitVec 16 := 0x0100#16
/-- IGNORE, bit 9. -/
def flagIgnore : BitVec 16 := 0x0200#16

/-- `flag[5]` (R58). -/
def hasNextBit (flag : BitVec 16) : Bool := flag.getLsbD 5

/-- `flag[6]` (R59). -/
def hasCompleteBit (flag : BitVec 16) : Bool := flag.getLsbD 6

/-- `flag[8]`: whether the payload layout begins with a metadata length (R48). -/
def hasMetadataBit (flag : BitVec 16) : Bool := flag.getLsbD 8

/-- `flag & 0xFEFF` (R83, R86). -/
def clearMetadata (flag : BitVec 16) : BitVec 16 := flag &&& 0xFEFF#16

/-- `flag | 0x0100` (R84, R86). -/
def setMetadata (flag : BitVec 16) : BitVec 16 := flag ||| 0x0100#16

/-- The cause codes (R89). -/
def Cause.code : Cause → Nat
  | .illegalFrameType => 1
  | .lengthOverrun => 2
  | .truncated => 3

/-- The names the source gives to Error codes (R76). -/
inductive ErrorName where
  | invalidSetup | unsupportedSetup | rejectSetup | rejectResume
  | connectionError | connectionClose
  | applicationError | rejected | canceled | invalid
  deriving DecidableEq, Repr

/-- The named Error codes (R76). The block transports any 32-bit code and reads none of these. -/
def ErrorName.code : ErrorName → BitVec 32
  | .invalidSetup => 0x00000001#32
  | .unsupportedSetup => 0x00000002#32
  | .rejectSetup => 0x00000003#32
  | .rejectResume => 0x00000004#32
  | .connectionError => 0x00000101#32
  | .connectionClose => 0x00000102#32
  | .applicationError => 0x00000201#32
  | .rejected => 0x00000202#32
  | .canceled => 0x00000203#32
  | .invalid => 0x00000204#32

end Sys2Proof.Machine
end

