-- ==== Sys2Proof/Machine/Ops.lean ====
section
/-! DEFINITION. The shared operations of the machine: ending a command with an outcome (the one place where a command's
error, fault or refusal is recorded), the size limit, appending to OUT, taking an event, reset, and a race. -/

namespace Sys2Proof.Machine

/-- How a command ends (60_exceptions.md R94, R96, R97; 10_state.md R26 to R28): STATUS gets the outcome's class,
RES its value or `none`, ERRREC the error record or `none`, and a fault or a refusal sets its sticky mark. There
is nothing to return from (R95): the next command is whatever the caller issues. -/
def respond (o : CmdOutcome) (s : State) : State :=
  match o with
  | .ok v => { s with status := .ok, res := v, errrec := none, outcome := some o }
  | .err e => { s with status := .err, res := none, errrec := some e, outcome := some o }
  | .fault _ => { s with status := .fault, res := none, errrec := none, faulted := true, outcome := some o }
  | .refuse _ => { s with status := .refuse, res := none, errrec := none, refused := true, outcome := some o }

/-- `n > P_MAX_FRAME` (R6): more bytes than a command may read or append. -/
def tooLarge (p : Params) (n : Nat) : Bool :=
  match p.maxFrame with
  | none => false
  | some m => decide (m < n)

/-- `Append(OUT, b)` (R12, R37). -/
def appendOut (b : Bytes) (s : State) : State := { s with out := s.out ++ b }

/-- What a command that turns operands into bytes comes to: how many bytes they are, whether their metadata
is longer than a 24-bit length can state, and the bytes. -/
structure Emission where
  size : Nat
  oversize : Bool
  bytes : Bytes
  deriving DecidableEq, Repr

/-- The refusal or fault of an encoding command, in the order of R93: the size limit (R97) before the oversize
metadata (R96), both before any byte is written. -/
def emissionStop (p : Params) (e : Emission) : Option CmdOutcome :=
  if tooLarge p e.size then some (.refuse .bufferTooLarge)
  else if e.oversize then some (.fault .encOversizeMetadata)
  else none

/-- End an encoding command that appends to OUT: the bytes and an `OK`, or the stop and no byte (R37, R38). -/
def emitToOut (e : Emission) (s : State) : State :=
  match emissionStop s.params e with
  | some o => respond o s
  | none => respond (.ok none) (appendOut e.bytes s)

/-- End an encoding command that returns a fresh byte sequence (R80): OUT is not touched. -/
def emitToRes (e : Emission) (s : State) : State :=
  match emissionStop s.params e with
  | some o => respond o s
  | none => respond (.ok (some (.bytes e.bytes))) s

/-- End a command with a body operand: `BAD_OPERAND` comes before every other check (R93, R97). -/
def withTypedBody (b : Body) (s : State) (k : State → State) : State :=
  if b.typed s.params then k s else respond (.refuse .badOperand) s

/-- Reset (70_reset_and_hazards.md R102): every register at its reset value; the parameters (R104) and the caller's
output buffer are not touched, and what the caller has still to issue is the caller's. -/
def resetRegisters (s : State) : State :=
  { State.reset with params := s.params, out := s.out, port := s.port, races := s.races }

/-- The bytes of a buffer another agent wrote during the n-th raced command: any value each (R42). -/
def racedBytes (n : Nat) (w : RacedBuffer) : Nat → Bytes → Bytes
  | _, [] => []
  | i, _ :: rest => Config.racedByte n w i :: racedBytes n w (i + 1) rest

/-- The operand fields as the command reads them: in a race every byte of IN is any value (R42); its length is
an operand and stays. -/
def seenOperand (n : Nat) : Operand → Operand
  | .input b => .input (racedBytes n .input 0 b)
  | .u32 v => .u32 v
  | .u16 v => .u16 v
  | .u6 v => .u6 v
  | .kind k => .kind k
  | .bytes b => .bytes b
  | .optBytes o => .optBytes o
  | .body b => .body b
  | .frame f => .frame f

/-- The operand fields of a request as the command reads them. -/
def seenOperands (r : Request) (s : State) : List Operand :=
  if r.racedIn then r.operands.map (seenOperand s.races) else r.operands

/-- Take a command off the port: the buffer it hands over is OUT from here on, and a raced command has its own
number for its free values. -/
def acceptRequest (r : Request) (rest : List Event) (s : State) : State :=
  { s with
    port := rest
    out := r.out.getD s.out
    races := if r.racedIn || r.racedOut then s.races + 1 else s.races }

/-- After a command whose output buffer another agent wrote: no order between the two agents (R42), so every
byte of OUT is any value. `n` is the command's number. -/
def settleOut (r : Request) (n : Nat) (o : Host.Outcome State Fault Refusal) : Host.Outcome State Fault Refusal :=
  if r.racedOut then
    match o with
    | .next t => .next { t with out := racedBytes n .output 0 t.out }
    | .fault f => .fault f
    | .refused q => .refused q
  else o

end Sys2Proof.Machine
end

