-- ==== Sys2Proof/Machine/Builder.lean ====
section
/-! DEFINITION. The payload frame builder (44_builder.md): B_INIT, B_SET_MD, B_SET_DATA, B_SET_ALL, B_BUILD. Each command
updates field and flag in one step, so that FLAG_METADATA in BLD_FLAG always says whether BLD_MD is present (R88). -/

namespace Sys2Proof.Machine

/-- Whether the frame being built has an initial request count (R16, R83, R87). -/
def countedBuild (p : Params) (k : PayloadKind) : Bool := p.reqnPrefix && k.hasCount

/-- The registers an accepted B_INIT writes (R83). -/
def openBuilder (k : PayloadKind) (sid : BitVec 32) (flag : BitVec 16) (initn : BitVec 32) (s : State) : State :=
  { s with
    bldValid := true
    bldKind := k
    bldSid := sid
    bldFlag := clearMetadata flag
    bldMd := none
    bldData := none
    bldInitn := if countedBuild s.params k then initn else s.bldInitn }

/-- B_INIT (R83): a kind that is not a payload kind is refused first, then an open builder (R97, C9). -/
def execBInit (kind : Kind) (sid : BitVec 32) (flag : BitVec 16) (initn : BitVec 32) (s : State) :
    Host.Outcome State Fault Refusal :=
  .next
    (match kind.payload? with
    | none => respond (.refuse .badOperand) s
    | some k =>
      if s.bldValid then respond (.refuse .builderBusy) s
      else respond (.ok none) (openBuilder k sid flag initn s))

/-- End a command that needs an open builder: `NO_BUILDER` without one (R97). -/
def withBuilder (s : State) (k : State → State) : State :=
  if s.bldValid then k s else respond (.refuse .noBuilder) s

/-- Metadata and its flag bit in one update (R84, R86). -/
def putMetadata (md : Option Bytes) (s : State) : State :=
  match md with
  | some m => { s with bldMd := some m, bldFlag := setMetadata s.bldFlag }
  | none => { s with bldMd := none, bldFlag := clearMetadata s.bldFlag }

/-- B_SET_MD (R84). -/
def execBSetMd (m : Bytes) (s : State) : Host.Outcome State Fault Refusal :=
  .next (withBuilder s fun s => respond (.ok none) (putMetadata (some m) s))

/-- B_SET_DATA (R85): the flag is not touched. -/
def execBSetData (d : Bytes) (s : State) : Host.Outcome State Fault Refusal :=
  .next (withBuilder s fun s => respond (.ok none) { s with bldData := some d })

/-- B_SET_ALL (R86): replaces both; the one command that clears bit 8 of an open builder. -/
def execBSetAll (data md : Option Bytes) (s : State) : Host.Outcome State Fault Refusal :=
  .next (withBuilder s fun s => respond (.ok none) { putMetadata md s with bldData := data })

/-- The frame in the builder registers (R87). -/
def builtFrame (s : State) : Frame :=
  { streamId := s.bldSid
    flag := s.bldFlag
    body := s.bldKind.body (if countedBuild s.params s.bldKind then some s.bldInitn else none) s.bldMd s.bldData }

/-- B_BUILD (R87): close the builder and return its frame; the other builder registers keep their values. -/
def execBBuild (s : State) : Host.Outcome State Fault Refusal :=
  .next (withBuilder s fun s => respond (.ok (some (.frame (builtFrame s)))) { s with bldValid := false })

end Sys2Proof.Machine
end

