-- ==== Sys2Proof/Machine/Payload.lean ====
section
/-! DEFINITION. The payload codec (41_payload.md): PL_DEC, PL_ENC, PL_LEN, SPLIT. -/

namespace Sys2Proof.Machine

/-- Data runs to the end of its run; an empty run means data absent (R48, R62). -/
def restData (rest : Bytes) : Option Bytes := if rest.isEmpty then none else some rest

/-- The payload decode of R62: metadata and data of a payload run. `hdr` is the enclosing frame's header, `none`
when PL_DEC runs by itself. -/
def decodePayload (flag : BitVec 16) (inp : Bytes) (hdr : Option Header) :
    Except ErrRec (Option Bytes × Option Bytes) :=
  if hasMetadataBit flag then
    if inp.length < 3 then .error ⟨.truncated, hdr⟩
    else
      let len := memRead inp 0 3
      if inp.length - 3 < len then .error ⟨.lengthOverrun, hdr⟩
      else .ok (some (slice inp 3 (3 + len)), restData (slice inp (3 + len) inp.length))
  else .ok (none, restData inp)

/-- The bytes PL_ENC appends (R63): the metadata, if any, behind its 3-byte length, then the data, if any. -/
def encodePayload (md data : Option Bytes) : Bytes :=
  (match md with
    | some m => be 3 m.length ++ m
    | none => []) ++ data.getD []

/-- PL_LEN's number (R64): arithmetic only, whatever the metadata's length. -/
def payloadLength (md data : Option Bytes) : Nat :=
  (match md with
    | some m => 3 + m.length
    | none => 0) +
  (match data with
    | some d => d.length
    | none => 0)

/-- The condition of `ENC_OVERSIZE_METADATA` (R63, R96). -/
def oversizeMetadata (md : Option Bytes) : Bool :=
  match md with
  | some m => decide (0xFFFFFF < m.length)
  | none => false

/-- What encoding a payload comes to. -/
def payloadEmission (md data : Option Bytes) : Emission :=
  { size := payloadLength md data, oversize := oversizeMetadata md, bytes := encodePayload md data }

/-- What PL_DEC comes to (R62), after the size limit of R97. -/
def plDecOutcome (p : Params) (flag : BitVec 16) (inp : Bytes) : CmdOutcome :=
  if tooLarge p inp.length then .refuse .bufferTooLarge
  else
    match decodePayload flag inp none with
    | .ok (md, data) => .ok (some (.pair md data))
    | .error e => .err e

/-- PL_DEC (R62). -/
def execPlDec (flag : BitVec 16) (inp : Bytes) (s : State) : Host.Outcome State Fault Refusal :=
  .next (respond (plDecOutcome s.params flag inp) s)

/-- PL_ENC (R63). -/
def execPlEnc (md data : Option Bytes) (s : State) : Host.Outcome State Fault Refusal :=
  .next (emitToOut (payloadEmission md data) s)

/-- PL_LEN (R64). -/
def execPlLen (md data : Option Bytes) (s : State) : Host.Outcome State Fault Refusal :=
  .next (respond (.ok (some (.natural (payloadLength md data)))) s)

/-- What SPLIT comes to on a body of its type (R65): data first, then metadata. -/
def splitOutcome (body : Body) : CmdOutcome :=
  match body.parts? with
  | some (md, data) => .ok (some (.pair data md))
  | none => .refuse .badOperand

/-- SPLIT (R65): a body that is not of a payload kind is refused. -/
def execSplit (body : Body) (s : State) : Host.Outcome State Fault Refusal :=
  .next (withTypedBody body s (respond (splitOutcome body)))

end Sys2Proof.Machine
end

