-- ==== Sys2Proof/Machine/Bodies.lean ====
section
/-! DEFINITION. The per-kind bodies (42_bodies.md): BODY_DEC, BODY_ENC, BODY_LEN. One arm per kind, no fallback arm. -/

namespace Sys2Proof.Machine

/-- The arm of R68: the payload layout over the whole body. -/
def decodePlainBody (k : PayloadKind) (flag : BitVec 16) (inp : Bytes) (hdr : Option Header) : Except ErrRec Body :=
  match decodePayload flag inp hdr with
  | .ok (md, data) => .ok (k.body none md data)
  | .error e => .error e

/-- The arm of R69: with `P_REQN_PREFIX` a 4-byte count first, then the payload layout over what remains. -/
def decodeCountedBody (p : Params) (k : PayloadKind) (flag : BitVec 16) (inp : Bytes) (hdr : Option Header) :
    Except ErrRec Body :=
  if p.reqnPrefix then
    if inp.length < 4 then .error ⟨.truncated, hdr⟩
    else
      match decodePayload flag (slice inp 4 inp.length) hdr with
      | .ok (md, data) => .ok (k.body (some (BitVec.ofNat 32 (memRead inp 0 4))) md data)
      | .error e => .error e
  else decodePlainBody k flag inp hdr

/-- The arm of R71: a 4-byte count; bytes after it are ignored. -/
def decodeRequestN (inp : Bytes) (hdr : Option Header) : Except ErrRec Body :=
  if inp.length < 4 then .error ⟨.truncated, hdr⟩
  else .ok (.requestN (BitVec.ofNat 32 (memRead inp 0 4)))

/-- The arm of R72: a 4-byte code, then the message to the end; neither is checked. -/
def decodeErrorBody (inp : Bytes) (hdr : Option Header) : Except ErrRec Body :=
  if inp.length < 4 then .error ⟨.truncated, hdr⟩
  else .ok (.error (BitVec.ofNat 32 (memRead inp 0 4)) (slice inp 4 inp.length))

/-- A cause the external unit reports (R7, R73). -/
def ofExtCause : ExtCause → Cause
  | .lengthOverrun => .lengthOverrun
  | .truncated => .truncated

/-- The arm of R73: the external unit decodes the body, given the ten low flag bits. -/
def decodeExtBody (k : ExtKind) (make : ExtValue → Body) (flag : BitVec 16) (inp : Bytes) (hdr : Option Header) :
    Except ErrRec Body :=
  match Config.extDecode k (flag.setWidth 10) inp with
  | .value v => .ok (make v)
  | .error c => .error ⟨ofExtCause c, hdr⟩

/-- The body decode of R67. -/
def decodeBody (p : Params) (k : Kind) (flag : BitVec 16) (inp : Bytes) (hdr : Option Header) : Except ErrRec Body :=
  match k with
  | .requestResponse => decodePlainBody .requestResponse flag inp hdr
  | .requestFnf => decodePlainBody .requestFnf flag inp hdr
  | .payload => decodePlainBody .payload flag inp hdr
  | .metadataPush => decodePlainBody .metadataPush flag inp hdr
  | .requestStream => decodeCountedBody p .requestStream flag inp hdr
  | .requestChannel => decodeCountedBody p .requestChannel flag inp hdr
  | .cancel => .ok .cancel
  | .requestN => decodeRequestN inp hdr
  | .error => decodeErrorBody inp hdr
  | .setup => decodeExtBody .setup .setup flag inp hdr
  | .lease => decodeExtBody .lease .lease flag inp hdr
  | .keepalive => decodeExtBody .keepalive .keepalive flag inp hdr
  | .resume => decodeExtBody .resume .resume flag inp hdr
  | .resumeOk => decodeExtBody .resumeOk .resumeOk flag inp hdr

/-- The bytes of an initial request count, where the body has one (R74). -/
def countBytes (initialN : Option (BitVec 32)) : Bytes :=
  match initialN with
  | some n => be 4 n.toNat
  | none => []

/-- The bytes BODY_ENC appends (R74). -/
def encodeBody : Body → Bytes
  | .requestResponse md data => encodePayload md data
  | .requestFnf md data => encodePayload md data
  | .payload md data => encodePayload md data
  | .metadataPush md data => encodePayload md data
  | .requestStream n md data => countBytes n ++ encodePayload md data
  | .requestChannel n md data => countBytes n ++ encodePayload md data
  | .cancel => []
  | .requestN n => be 4 n.toNat
  | .error code message => be 4 code.toNat ++ message
  | .setup v => Config.extEncode .setup v
  | .lease v => Config.extEncode .lease v
  | .keepalive v => Config.extEncode .keepalive v
  | .resume v => Config.extEncode .resume v
  | .resumeOk v => Config.extEncode .resumeOk v

/-- The size of an initial request count, where the body has one (R75). -/
def countLength (initialN : Option (BitVec 32)) : Nat :=
  match initialN with
  | some _ => 4
  | none => 0

/-- BODY_LEN's number (R75). -/
def bodyLength : Body → Nat
  | .requestResponse md data => payloadLength md data
  | .requestFnf md data => payloadLength md data
  | .payload md data => payloadLength md data
  | .metadataPush md data => payloadLength md data
  | .requestStream n md data => countLength n + payloadLength md data
  | .requestChannel n md data => countLength n + payloadLength md data
  | .cancel => 0
  | .requestN _ => 4
  | .error _ message => 4 + message.length
  | .setup v => Config.extLength .setup v
  | .lease v => Config.extLength .lease v
  | .keepalive v => Config.extLength .keepalive v
  | .resume v => Config.extLength .resume v
  | .resumeOk v => Config.extLength .resumeOk v

/-- What encoding a body comes to. -/
def bodyEmission (b : Body) : Emission :=
  { size := bodyLength b, oversize := oversizeMetadata b.metadata, bytes := encodeBody b }

/-- What BODY_DEC comes to (R67), after the size limit of R97. -/
def bodyDecOutcome (p : Params) (k : Kind) (flag : BitVec 16) (inp : Bytes) : CmdOutcome :=
  if tooLarge p inp.length then .refuse .bufferTooLarge
  else
    match decodeBody p k flag inp none with
    | .ok b => .ok (some (.body b))
    | .error e => .err e

/-- BODY_DEC (R67). -/
def execBodyDec (kind : Kind) (flag : BitVec 16) (inp : Bytes) (s : State) : Host.Outcome State Fault Refusal :=
  .next (respond (bodyDecOutcome s.params kind flag inp) s)

/-- BODY_ENC (R74). -/
def execBodyEnc (body : Body) (s : State) : Host.Outcome State Fault Refusal :=
  .next (withTypedBody body s (emitToOut (bodyEmission body)))

/-- BODY_LEN (R75): defined even where BODY_ENC faults. -/
def execBodyLen (body : Body) (s : State) : Host.Outcome State Fault Refusal :=
  .next (withTypedBody body s (respond (.ok (some (.natural (bodyLength body))))))

end Sys2Proof.Machine
end

