-- ==== Sys2Proof/Machine/Frames.lean ====
section
/-! DEFINITION. The frame rows of the opcode table: what FRM_DEC does with a wire frame of each type code (43_envelope.md R78;
42_bodies.md R68 to R73 for the bodies; 60_exceptions.md R90 for the codes that name no kind). A row's meaning is the decode
of one such frame, of 6 + |body| bytes. -/

namespace Sys2Proof.Machine

/-- What decoding a frame of a kind comes to (R78 after its header, R93): the frame with its flag zero-extended,
or the body's error with the header in its record. -/
def frameOutcome (p : Params) (k : Kind) (sid : BitVec 32) (flags : BitVec 10) (body : Bytes) : CmdOutcome :=
  if tooLarge p (6 + body.length) then .refuse .bufferTooLarge
  else
    match decodeBody p k (flags.setWidth 16) body (some ⟨sid, k.code, flags⟩) with
    | .ok b => .ok (some (.frame ⟨sid, flags.setWidth 16, b⟩))
    | .error e => .err e

/-- What decoding a frame whose type code names no kind comes to (R90): the header, with the code that failed,
is in the record; the body is not looked at, and the IGNORE bit changes nothing (R95). -/
def illegalOutcome (p : Params) (type : BitVec 6) (sid : BitVec 32) (flags : BitVec 10) (body : Bytes) : CmdOutcome :=
  if tooLarge p (6 + body.length) then .refuse .bufferTooLarge
  else .err ⟨.illegalFrameType, some ⟨sid, type, flags⟩⟩

/-- FRAME_SETUP, type code 0x01 (R73). -/
def execFrameSetup (sid : BitVec 32) (flags : BitVec 10) (body : Bytes) (s : State) :
    Host.Outcome State Fault Refusal :=
  .next (respond (frameOutcome s.params .setup sid flags body) s)

/-- FRAME_LEASE, type code 0x02 (R73). -/
def execFrameLease (sid : BitVec 32) (flags : BitVec 10) (body : Bytes) (s : State) :
    Host.Outcome State Fault Refusal :=
  .next (respond (frameOutcome s.params .lease sid flags body) s)

/-- FRAME_KEEPALIVE, type code 0x03 (R73). -/
def execFrameKeepalive (sid : BitVec 32) (flags : BitVec 10) (body : Bytes) (s : State) :
    Host.Outcome State Fault Refusal :=
  .next (respond (frameOutcome s.params .keepalive sid flags body) s)

/-- FRAME_REQUESTRESPONSE, type code 0x04 (R68). -/
def execFrameRequestResponse (sid : BitVec 32) (flags : BitVec 10) (body : Bytes) (s : State) :
    Host.Outcome State Fault Refusal :=
  .next (respond (frameOutcome s.params .requestResponse sid flags body) s)

/-- FRAME_REQUESTFNF, type code 0x05 (R68). -/
def execFrameRequestFnf (sid : BitVec 32) (flags : BitVec 10) (body : Bytes) (s : State) :
    Host.Outcome State Fault Refusal :=
  .next (respond (frameOutcome s.params .requestFnf sid flags body) s)

/-- FRAME_REQUESTSTREAM, type code 0x06 (R69). -/
def execFrameRequestStream (sid : BitVec 32) (flags : BitVec 10) (body : Bytes) (s : State) :
    Host.Outcome State Fault Refusal :=
  .next (respond (frameOutcome s.params .requestStream sid flags body) s)

/-- FRAME_REQUESTCHANNEL, type code 0x07 (R69). -/
def execFrameRequestChannel (sid : BitVec 32) (flags : BitVec 10) (body : Bytes) (s : State) :
    Host.Outcome State Fault Refusal :=
  .next (respond (frameOutcome s.params .requestChannel sid flags body) s)

/-- FRAME_REQUESTN, type code 0x08 (R71). -/
def execFrameRequestN (sid : BitVec 32) (flags : BitVec 10) (body : Bytes) (s : State) :
    Host.Outcome State Fault Refusal :=
  .next (respond (frameOutcome s.params .requestN sid flags body) s)

/-- FRAME_CANCEL, type code 0x09 (R70). -/
def execFrameCancel (sid : BitVec 32) (flags : BitVec 10) (body : Bytes) (s : State) :
    Host.Outcome State Fault Refusal :=
  .next (respond (frameOutcome s.params .cancel sid flags body) s)

/-- FRAME_PAYLOAD, type code 0x0A (R68). -/
def execFramePayload (sid : BitVec 32) (flags : BitVec 10) (body : Bytes) (s : State) :
    Host.Outcome State Fault Refusal :=
  .next (respond (frameOutcome s.params .payload sid flags body) s)

/-- FRAME_ERROR, type code 0x0B (R72). -/
def execFrameError (sid : BitVec 32) (flags : BitVec 10) (body : Bytes) (s : State) :
    Host.Outcome State Fault Refusal :=
  .next (respond (frameOutcome s.params .error sid flags body) s)

/-- FRAME_METADATAPUSH, type code 0x0C (R68). -/
def execFrameMetadataPush (sid : BitVec 32) (flags : BitVec 10) (body : Bytes) (s : State) :
    Host.Outcome State Fault Refusal :=
  .next (respond (frameOutcome s.params .metadataPush sid flags body) s)

/-- FRAME_RESUME, type code 0x0D (R73). -/
def execFrameResume (sid : BitVec 32) (flags : BitVec 10) (body : Bytes) (s : State) :
    Host.Outcome State Fault Refusal :=
  .next (respond (frameOutcome s.params .resume sid flags body) s)

/-- FRAME_RESUMEOK, type code 0x0E (R73). -/
def execFrameResumeOk (sid : BitVec 32) (flags : BitVec 10) (body : Bytes) (s : State) :
    Host.Outcome State Fault Refusal :=
  .next (respond (frameOutcome s.params .resumeOk sid flags body) s)

/-- FRAME_ILLEGAL, type code 0x00 (R90). -/
def execFrameIllegal00 (sid : BitVec 32) (flags : BitVec 10) (body : Bytes) (s : State) :
    Host.Outcome State Fault Refusal :=
  .next (respond (illegalOutcome s.params 0x00#6 sid flags body) s)

/-- FRAME_ILLEGAL, type code 0x0F (R90). -/
def execFrameIllegal0F (sid : BitVec 32) (flags : BitVec 10) (body : Bytes) (s : State) :
    Host.Outcome State Fault Refusal :=
  .next (respond (illegalOutcome s.params 0x0F#6 sid flags body) s)

/-- FRAME_ILLEGAL, type codes 0x10 to 0x1F (R90). -/
def execFrameIllegal10 (low : BitVec 4) (sid : BitVec 32) (flags : BitVec 10) (body : Bytes) (s : State) :
    Host.Outcome State Fault Refusal :=
  .next (respond (illegalOutcome s.params (0b01#2 ++ low) sid flags body) s)

/-- FRAME_ILLEGAL, type codes 0x20 to 0x3F (R90). -/
def execFrameIllegal20 (low : BitVec 5) (sid : BitVec 32) (flags : BitVec 10) (body : Bytes) (s : State) :
    Host.Outcome State Fault Refusal :=
  .next (respond (illegalOutcome s.params (0b1#1 ++ low) sid flags body) s)

end Sys2Proof.Machine
end

