-- ==== Sys2Proof/Machine/Envelope.lean ====
section
/-! DEFINITION. The frame envelope (43_envelope.md): FRM_DEC, FRM_WRITE, FRM_ENC, FRM_LEN. -/

namespace Sys2Proof.Machine

/-- FRM_DEC after the header (R78): dispatch on the type code to the frame's row. -/
def dispatchFrame (h : Header) (body : Bytes) (s : State) : Host.Outcome State Fault Refusal :=
  match kindOf h.type with
  | some .setup => execFrameSetup h.streamId h.flag body s
  | some .lease => execFrameLease h.streamId h.flag body s
  | some .keepalive => execFrameKeepalive h.streamId h.flag body s
  | some .requestResponse => execFrameRequestResponse h.streamId h.flag body s
  | some .requestFnf => execFrameRequestFnf h.streamId h.flag body s
  | some .requestStream => execFrameRequestStream h.streamId h.flag body s
  | some .requestChannel => execFrameRequestChannel h.streamId h.flag body s
  | some .requestN => execFrameRequestN h.streamId h.flag body s
  | some .cancel => execFrameCancel h.streamId h.flag body s
  | some .payload => execFramePayload h.streamId h.flag body s
  | some .error => execFrameError h.streamId h.flag body s
  | some .metadataPush => execFrameMetadataPush h.streamId h.flag body s
  | some .resume => execFrameResume h.streamId h.flag body s
  | some .resumeOk => execFrameResumeOk h.streamId h.flag body s
  | none =>
    if h.type = 0x00#6 then execFrameIllegal00 h.streamId h.flag body s
    else if h.type.toNat < 0x10 then execFrameIllegal0F h.streamId h.flag body s
    else if h.type.toNat < 0x20 then execFrameIllegal10 (h.type.setWidth 4) h.streamId h.flag body s
    else execFrameIllegal20 (h.type.setWidth 5) h.streamId h.flag body s

/-- FRM_DEC (R78): the size limit, the header's bounds check, then the row of the frame's type code. -/
def execFrmDec (inp : Bytes) (s : State) : Host.Outcome State Fault Refusal :=
  if tooLarge s.params inp.length then .next (respond (.refuse .bufferTooLarge) s)
  else if inp.length < 6 then .next (respond (.err ⟨.truncated, none⟩) s)
  else dispatchFrame (readHeader inp) (inp.drop 6) s

/-- The bytes of a frame (R79): the header with the body's type code and the low 10 flag bits, then the body. -/
def encodeFrame (f : Frame) : Bytes :=
  writeHeader f.streamId f.body.kind.code f.flag ++ encodeBody f.body

/-- FRM_LEN's number (R81). -/
def frameLength (f : Frame) : Nat := 6 + bodyLength f.body

/-- What encoding a frame comes to. -/
def frameEmission (f : Frame) : Emission :=
  { size := frameLength f, oversize := oversizeMetadata f.body.metadata, bytes := encodeFrame f }

/-- FRM_WRITE (R79): append the frame's bytes to OUT. -/
def execFrmWrite (frame : Frame) (s : State) : Host.Outcome State Fault Refusal :=
  .next (withTypedBody frame.body s (emitToOut (frameEmission frame)))

/-- FRM_ENC (R80): the same bytes as a fresh sequence; OUT is not touched. -/
def execFrmEnc (frame : Frame) (s : State) : Host.Outcome State Fault Refusal :=
  .next (withTypedBody frame.body s (emitToRes (frameEmission frame)))

/-- FRM_LEN (R81): defined even where FRM_WRITE faults. -/
def execFrmLen (frame : Frame) (s : State) : Host.Outcome State Fault Refusal :=
  .next (withTypedBody frame.body s (respond (.ok (some (.natural (frameLength frame))))))

end Sys2Proof.Machine
end

