-- ==== Sys2Proof/Machine/Header.lean ====
section
/-! DEFINITION. The header commands (40_header.md): HDR_ENC, HDR_DEC, HAS_NEXT, HAS_COMPLETE, TYPE_OF. -/

namespace Sys2Proof.Machine

/-- HDR_ENC (R56): pack a header; it cannot fail. -/
def execHdrEnc (sid : BitVec 32) (type : BitVec 6) (flag : BitVec 16) (s : State) :
    Host.Outcome State Fault Refusal :=
  .next (respond (.ok (some (.bytes (writeHeader sid type flag)))) s)

/-- What HDR_DEC comes to (R57), after the size limit of R97. -/
def hdrDecOutcome (p : Params) (inp : Bytes) : CmdOutcome :=
  if tooLarge p inp.length then .refuse .bufferTooLarge
  else if inp.length < 6 then .err ⟨.truncated, none⟩
  else .ok (some (.header (readHeader inp)))

/-- HDR_DEC (R57): unpack a header; bytes from offset 6 on are not read, and the type code is not checked. -/
def execHdrDec (inp : Bytes) (s : State) : Host.Outcome State Fault Refusal :=
  .next (respond (hdrDecOutcome s.params inp) s)

/-- HAS_NEXT (R58). -/
def execHasNext (flag : BitVec 16) (s : State) : Host.Outcome State Fault Refusal :=
  .next (respond (.ok (some (.bit (hasNextBit flag)))) s)

/-- HAS_COMPLETE (R59). -/
def execHasComplete (flag : BitVec 16) (s : State) : Host.Outcome State Fault Refusal :=
  .next (respond (.ok (some (.bit (hasCompleteBit flag)))) s)

/-- TYPE_OF (R60): the type code of a body's kind. -/
def execTypeOf (body : Body) (s : State) : Host.Outcome State Fault Refusal :=
  .next (withTypedBody body s (respond (.ok (some (.typeCode body.kind.code)))))

end Sys2Proof.Machine
end

