-- ==== Sys2Proof/Machine/Reserved.lean ====
section
/-! DEFINITION. The reserved command codes 0x00 and 0x16 to 0x1F (30_encoding.md R53): refused, `RESERVED_COMMAND`
(60_exceptions.md R97). -/

namespace Sys2Proof.Machine

/-- CMD_RESERVED, code 0x00. -/
def execCmdReserved00 (s : State) : Host.Outcome State Fault Refusal :=
  .next (respond (.refuse .reservedCommand) s)

/-- CMD_RESERVED, codes 0x16 and 0x17: both alike. -/
def execCmdReserved16 (_low : BitVec 1) (s : State) : Host.Outcome State Fault Refusal :=
  .next (respond (.refuse .reservedCommand) s)

/-- CMD_RESERVED, codes 0x18 to 0x1F: all alike. -/
def execCmdReserved18 (_low : BitVec 3) (s : State) : Host.Outcome State Fault Refusal :=
  .next (respond (.refuse .reservedCommand) s)

end Sys2Proof.Machine
end

