-- ==== Sys2Proof/Machine/Dispatch.lean ====
section
/-! DEFINITION. The dispatch: one arm per row of spec/opcode_table.json, each one call of that row's meaning. -/

namespace Sys2Proof.Machine

def exec (i : Instr) (s : State) : Host.Outcome State Fault Refusal :=
  match i with
  -- the wire frames FRM_DEC reads (43_envelope.md R78)
  | .frameSetup sid flags body => Sys2Proof.Machine.execFrameSetup sid flags body s
  | .frameLease sid flags body => Sys2Proof.Machine.execFrameLease sid flags body s
  | .frameKeepalive sid flags body => Sys2Proof.Machine.execFrameKeepalive sid flags body s
  | .frameRequestResponse sid flags body => Sys2Proof.Machine.execFrameRequestResponse sid flags body s
  | .frameRequestFnf sid flags body => Sys2Proof.Machine.execFrameRequestFnf sid flags body s
  | .frameRequestStream sid flags body => Sys2Proof.Machine.execFrameRequestStream sid flags body s
  | .frameRequestChannel sid flags body => Sys2Proof.Machine.execFrameRequestChannel sid flags body s
  | .frameRequestN sid flags body => Sys2Proof.Machine.execFrameRequestN sid flags body s
  | .frameCancel sid flags body => Sys2Proof.Machine.execFrameCancel sid flags body s
  | .framePayload sid flags body => Sys2Proof.Machine.execFramePayload sid flags body s
  | .frameError sid flags body => Sys2Proof.Machine.execFrameError sid flags body s
  | .frameMetadataPush sid flags body => Sys2Proof.Machine.execFrameMetadataPush sid flags body s
  | .frameResume sid flags body => Sys2Proof.Machine.execFrameResume sid flags body s
  | .frameResumeOk sid flags body => Sys2Proof.Machine.execFrameResumeOk sid flags body s
  | .frameIllegal00 sid flags body => Sys2Proof.Machine.execFrameIllegal00 sid flags body s
  | .frameIllegal0F sid flags body => Sys2Proof.Machine.execFrameIllegal0F sid flags body s
  | .frameIllegal10 low sid flags body => Sys2Proof.Machine.execFrameIllegal10 low sid flags body s
  | .frameIllegal20 low sid flags body => Sys2Proof.Machine.execFrameIllegal20 low sid flags body s
  -- the commands (30_encoding.md R52)
  | .hdrEnc sid type flag => Sys2Proof.Machine.execHdrEnc sid type flag s
  | .hdrDec inp => Sys2Proof.Machine.execHdrDec inp s
  | .hasNext flag => Sys2Proof.Machine.execHasNext flag s
  | .hasComplete flag => Sys2Proof.Machine.execHasComplete flag s
  | .typeOf body => Sys2Proof.Machine.execTypeOf body s
  | .plDec flag inp => Sys2Proof.Machine.execPlDec flag inp s
  | .plEnc md data => Sys2Proof.Machine.execPlEnc md data s
  | .plLen md data => Sys2Proof.Machine.execPlLen md data s
  | .bodyDec kind flag inp => Sys2Proof.Machine.execBodyDec kind flag inp s
  | .bodyEnc body => Sys2Proof.Machine.execBodyEnc body s
  | .bodyLen body => Sys2Proof.Machine.execBodyLen body s
  | .frmDec inp => Sys2Proof.Machine.execFrmDec inp s
  | .frmEnc frame => Sys2Proof.Machine.execFrmEnc frame s
  | .frmWrite frame => Sys2Proof.Machine.execFrmWrite frame s
  | .frmLen frame => Sys2Proof.Machine.execFrmLen frame s
  | .bInit kind sid flag initn => Sys2Proof.Machine.execBInit kind sid flag initn s
  | .bSetMd m => Sys2Proof.Machine.execBSetMd m s
  | .bSetData d => Sys2Proof.Machine.execBSetData d s
  | .bSetAll data md => Sys2Proof.Machine.execBSetAll data md s
  | .bBuild => Sys2Proof.Machine.execBBuild s
  | .split body => Sys2Proof.Machine.execSplit body s
  -- the reserved command codes (30_encoding.md R53)
  | .cmdReserved00 => Sys2Proof.Machine.execCmdReserved00 s
  | .cmdReserved16 low => Sys2Proof.Machine.execCmdReserved16 low s
  | .cmdReserved18 low => Sys2Proof.Machine.execCmdReserved18 low s

end Sys2Proof.Machine
end

