-- ==== Sys2Proof/Machine/Step.lean ====
section
/-! DEFINITION. One step of the block: take the oldest event off the port and do it, whole (20_memory.md R38, R41;
70_reset_and_hazards.md R110). There is no program counter and no fetch from memory (10_state.md R24). -/

namespace Sys2Proof.Machine

/-- Run an accepted command: its decoded instruction, or the refusal of operand fields that are not of their
types (R53, R97). -/
def runCommand (r : Request) (rest : List Event) (s : State) : Host.Outcome State Fault Refusal :=
  match decodeCommand r.code (seenOperands r s) with
  | .ok i => exec i (acceptRequest r rest s)
  | .error _ => .next (respond (.refuse .badOperand) (acceptRequest r rest s))

/-- One step. With nothing issued the block waits (R103): nothing changes. -/
def step (s : State) : Host.Outcome State Fault Refusal :=
  match s.port with
  | [] => .next s
  | .reset :: rest => .next (resetRegisters { s with port := rest })
  | .command r :: rest => settleOut r s.races (runCommand r rest s)

/-- The command that carries a word of the opcode table: a command code with zero operand fields, or FRM_DEC of
the frame with that type-and-flags word. -/
def requestOfTable (nbits w : Nat) : Request :=
  if nbits ≤ 8 then
    { code := BitVec.ofNat 5 w, operands := zeroOperands (BitVec.ofNat 5 w) }
  else { code := 0x0C#5, operands := [.input (tableFrame w)] }

/-- `s` with that command issued ahead of everything else on the port. -/
def State.withFetchWord (s : State) (nbits w : Nat) : State :=
  { s with port := .command (requestOfTable nbits w) :: s.port }

end Sys2Proof.Machine
end

