-- ==== Sys2Proof/Safety.lean ====
section
/-! DEFINITION. The terms claims are stated in: a clean run, the invariants of the registers, how a command ends as a state,
canonical frames, the wire bytes written out, and which instructions decode, append to OUT or build. None of these is part of
the machine: they say over again, in another form, what the rules say. -/

namespace Sys2Proof

/-! ### Wire bytes, written out (20_memory.md R33, R34; 30_encoding.md R44, R45, R48, R49) -/

namespace Wire

/-- A 4-byte field, most significant byte first. -/
def u32 (v : BitVec 32) : Bytes :=
  [v.extractLsb' 24 8, v.extractLsb' 16 8, v.extractLsb' 8 8, v.extractLsb' 0 8]

/-- A 3-byte length, most significant byte first. -/
def u24 (n : Nat) : Bytes := [BitVec.ofNat 8 (n / 65536), BitVec.ofNat 8 (n / 256), BitVec.ofNat 8 n]

/-- The six header bytes: the stream id, then the type code above flag bits 9:0. -/
def header (sid : BitVec 32) (type : BitVec 6) (flag : BitVec 16) : Bytes :=
  u32 sid ++ [type ++ flag.extractLsb' 8 2, flag.extractLsb' 0 8]

/-- The payload layout. -/
def payload : Option Bytes → Option Bytes → Bytes
  | none, none => []
  | none, some d => d
  | some m, none => u24 m.length ++ m
  | some m, some d => u24 m.length ++ m ++ d

/-- An initial request count, where there is one. -/
def count : Option (BitVec 32) → Bytes
  | none => []
  | some n => u32 n

/-- A data run: an empty one is data absent. -/
def data (b : Bytes) : Option Bytes := if b = [] then none else some b

/-- A body of each kind. -/
def body : Body → Bytes
  | .setup v => Config.extEncode .setup v
  | .lease v => Config.extEncode .lease v
  | .keepalive v => Config.extEncode .keepalive v
  | .requestResponse md data => payload md data
  | .requestFnf md data => payload md data
  | .requestStream n md data => count n ++ payload md data
  | .requestChannel n md data => count n ++ payload md data
  | .requestN n => u32 n
  | .cancel => []
  | .payload md data => payload md data
  | .error code message => u32 code ++ message
  | .metadataPush md data => payload md data
  | .resume v => Config.extEncode .resume v
  | .resumeOk v => Config.extEncode .resumeOk v

/-- A whole frame. -/
def frame (f : Frame) : Bytes := header f.streamId f.body.kind.code f.flag ++ body f.body

end Wire

/-- Metadata a 24-bit length can state (60_exceptions.md R96). -/
abbrev MetadataFits (md : Option Bytes) : Prop := ∀ m, md = some m → m.length ≤ 0xFFFFFF

/-! ### Canonical frames -/

/-- The record flag of a decoded frame has bits 15:10 clear (10_state.md R19). -/
abbrev Frame.FlagNarrow (f : Frame) : Prop := f.flag.toNat < 1024

/-- The external kinds (10_state.md R14). -/
def Kind.isExternal (k : Kind) : Bool :=
  match k with
  | .setup => true
  | .lease => true
  | .keepalive => true
  | .resume => true
  | .resumeOk => true
  | .requestResponse => false
  | .requestFnf => false
  | .requestStream => false
  | .requestChannel => false
  | .requestN => false
  | .cancel => false
  | .payload => false
  | .error => false
  | .metadataPush => false

/-- A body whose parts survive a round trip when bit 8 of `flag` selects the layout (42_bodies.md R77): for a payload
kind, bit 8 says whether metadata is present, data is not present-but-empty, and metadata fits a 24-bit length. -/
def Body.RoundTrips (flag : BitVec 16) (b : Body) : Prop :=
  match b.parts? with
  | some (md, data) =>
    flag.getLsbD 8 = md.isSome ∧ data ≠ some [] ∧ MetadataFits md
  | none => True

/-- A canonical frame (43_envelope.md R82). -/
def Frame.Canonical (f : Frame) : Prop :=
  f.FlagNarrow ∧ f.body.RoundTrips f.flag ∧ f.body.kind.isExternal = false

/-! ### Families of instructions -/

/-- What an instruction is about: decoding bytes, appending to OUT, returning fresh bytes, the builder, a pure answer, or
a reserved code. -/
inductive Family where
  | decoding | toOut | toRes | building | answering | reserved
  deriving DecidableEq, Repr

/-- The family of each instruction (30_encoding.md R52). -/
def Instr.family : Instr → Family
  | .frameSetup .. | .frameLease .. | .frameKeepalive .. | .frameRequestResponse .. | .frameRequestFnf ..
  | .frameRequestStream .. | .frameRequestChannel .. | .frameRequestN .. | .frameCancel .. | .framePayload ..
  | .frameError .. | .frameMetadataPush .. | .frameResume .. | .frameResumeOk .. | .frameIllegal00 ..
  | .frameIllegal0F .. | .frameIllegal10 .. | .frameIllegal20 .. | .hdrDec .. | .plDec .. | .bodyDec ..
  | .frmDec .. => .decoding
  | .plEnc .. | .bodyEnc .. | .frmWrite .. => .toOut
  | .frmEnc .. => .toRes
  | .bInit .. | .bSetMd .. | .bSetData .. | .bSetAll .. | .bBuild => .building
  | .hdrEnc .. | .hasNext .. | .hasComplete .. | .typeOf .. | .plLen .. | .bodyLen .. | .frmLen ..
  | .split .. => .answering
  | .cmdReserved00 | .cmdReserved16 .. | .cmdReserved18 .. => .reserved

/-- The bytes a command reads from IN or would append, where R97 limits them (order 3 of its table). -/
def Instr.bufferSize : Instr → Option Nat
  | .frameSetup _ _ b | .frameLease _ _ b | .frameKeepalive _ _ b | .frameRequestResponse _ _ b
  | .frameRequestFnf _ _ b | .frameRequestStream _ _ b | .frameRequestChannel _ _ b | .frameRequestN _ _ b
  | .frameCancel _ _ b | .framePayload _ _ b | .frameError _ _ b | .frameMetadataPush _ _ b
  | .frameResume _ _ b | .frameResumeOk _ _ b | .frameIllegal00 _ _ b | .frameIllegal0F _ _ b
  | .frameIllegal10 _ _ _ b | .frameIllegal20 _ _ _ b => some (6 + b.length)
  | .hdrDec inp | .plDec _ inp | .bodyDec _ _ inp | .frmDec inp => some inp.length
  | .plEnc md data => some (Wire.payload md data).length
  | .bodyEnc b => some (Wire.body b).length
  | .frmWrite f | .frmEnc f => some (Wire.frame f).length
  | .hdrEnc .. | .hasNext .. | .hasComplete .. | .typeOf .. | .plLen .. | .bodyLen .. | .frmLen .. | .split ..
  | .bInit .. | .bSetMd .. | .bSetData .. | .bSetAll .. | .bBuild | .cmdReserved00 | .cmdReserved16 ..
  | .cmdReserved18 .. => none

/-- The metadata an encoding command is to encode (R96). -/
def Instr.metadataToEncode : Instr → Option Bytes
  | .plEnc md _ => md
  | .bodyEnc b => b.metadata
  | .frmWrite f | .frmEnc f => f.body.metadata
  | .frameSetup .. | .frameLease .. | .frameKeepalive .. | .frameRequestResponse .. | .frameRequestFnf ..
  | .frameRequestStream .. | .frameRequestChannel .. | .frameRequestN .. | .frameCancel .. | .framePayload ..
  | .frameError .. | .frameMetadataPush .. | .frameResume .. | .frameResumeOk .. | .frameIllegal00 ..
  | .frameIllegal0F .. | .frameIllegal10 .. | .frameIllegal20 .. | .hdrDec .. | .plDec .. | .bodyDec ..
  | .frmDec .. | .hdrEnc .. | .hasNext .. | .hasComplete .. | .typeOf .. | .plLen .. | .bodyLen .. | .frmLen ..
  | .split .. | .bInit .. | .bSetMd .. | .bSetData .. | .bSetAll .. | .bBuild | .cmdReserved00
  | .cmdReserved16 .. | .cmdReserved18 .. => none

/-- A command that needs an open builder (R97, order 5). -/
def Instr.needsBuilder (i : Instr) : Bool :=
  match i with
  | .bInit .. => false
  | j => decide (j.family = .building)

namespace Machine

/-- The premise of a claim about a run (10_state.md R28): no model fault and no refusal up to here. -/
abbrev State.Clean (s : State) : Prop := s.faulted = false ∧ s.refused = false

/-- The builder invariant (44_builder.md R88): while a builder is open, FLAG_METADATA says whether metadata is
present. -/
abbrev State.BuilderConsistent (s : State) : Prop :=
  s.bldValid = true → s.bldFlag.getLsbD 8 = s.bldMd.isSome

/-- The status registers agree with one another (10_state.md R26 to R28): RES only after an OK, ERRREC exactly
after an ERR, and a fault or a refusal has left its sticky mark. -/
structure State.StatusConsistent (s : State) : Prop where
  res_only_after_ok : s.res.isSome = true → s.status = .ok
  errrec_exactly_after_err : s.errrec.isSome = true ↔ s.status = .err
  fault_left_its_mark : s.status = .fault → s.faulted = true
  refuse_left_its_mark : s.status = .refuse → s.refused = true
  idle_exactly_before_a_command : s.outcome = none ↔ s.status = .idle

/-! ### How a command ends, field by field -/

/-- The state after an `OK` with result `v`: nothing else changes (10_state.md R26, R27). -/
abbrev State.endsOk (s : State) (v : Option Value) : State :=
  { s with status := .ok, res := v, errrec := none, outcome := some (.ok v) }

/-- The state after a FrameDecodeError (60_exceptions.md R94). -/
abbrev State.endsErr (s : State) (e : ErrRec) : State :=
  { s with status := .err, res := none, errrec := some e, outcome := some (.err e) }

/-- The state after a model fault (60_exceptions.md R96). -/
abbrev State.endsFault (s : State) (f : FaultName) : State :=
  { s with status := .fault, res := none, errrec := none, faulted := true, outcome := some (.fault f) }

/-- The state after a refusal (60_exceptions.md R97). -/
abbrev State.endsRefuse (s : State) (r : RefuseName) : State :=
  { s with status := .refuse, res := none, errrec := none, refused := true, outcome := some (.refuse r) }

/-- The state after an `OK` without a result that appended `b` to OUT (20_memory.md R37). -/
abbrev State.endsAppending (s : State) (b : Bytes) : State :=
  { s with status := .ok, res := none, errrec := none, outcome := some (.ok none), out := s.out ++ b }

/-! ### A command taken off the port -/

/-- The state a command runs on: without it on the port, on the output buffer it hands over (log entries 3 and 5), and
with the next number for the free values if it is raced (log entry 9). -/
abbrev State.taking (s : State) (r : Request) (rest : List Event) : State :=
  { s with
    port := rest
    out := r.out.getD s.out
    races := if r.racedIn = true ∨ r.racedOut = true then s.races + 1 else s.races }

/-- The state after a command that ended in `t`: if another agent wrote OUT meanwhile, every byte of OUT is any value
(20_memory.md R42; log entry 9). -/
abbrev State.settling (s : State) (r : Request) (t : State) : State :=
  if r.racedOut = true then { t with out := racedBytes s.races .output 0 t.out } else t

/-- A buffer or an append of n bytes is within `P_MAX_FRAME` (00_scope.md R6). -/
def Fits (p : Params) (n : Nat) : Prop := ∀ m, p.maxFrame = some m → n ≤ m

end Machine

end Sys2Proof
end

