-- ==== Sys2Proof/Certificates/Slice0/Obligations.lean ====
section
/-! DEFINITION. The statements for the provers. Each says what one or a few rules of spec/ say, of every state and every
operand, through `exec` or `step`; wire bytes are written out by Safety.lean's `Wire`, not by the machine's own operations.
An equation `exec i s = .next (s.ends… …)` names every field that changes; what it does not name is unchanged. -/

open Sys2Proof Sys2Proof.Machine

/-! ### Reset, the port, one step -/

/-- R102: reset values of every register the rule gives one, and reset as an event: the caller's output buffer is
not touched and an open builder is lost. R104: the parameters are not changed. That a reset is an event taken off the port
is DESIGN CHOICE (log entry 3); what it leaves on the caller's side is read from R102 and R104 (DEDUCED, log entry 13). -/
def Obligations.ResetPutsEveryRegisterInItsResetValue : Prop :=
  (State.reset.bldValid = false ∧ State.reset.status = .idle ∧ State.reset.res = none ∧
    State.reset.errrec = none ∧ State.reset.faulted = false ∧ State.reset.refused = false) ∧
  ∀ (s : State) (rest : List Event), s.port = .reset :: rest →
    ∃ t, step s = .next t ∧ t.bldValid = false ∧ t.status = .idle ∧ t.res = none ∧ t.errrec = none ∧
      t.faulted = false ∧ t.refused = false ∧ t.out = s.out ∧ t.params = s.params

/-- R41, R52: a command that decodes to `i` is run as `i`. The port it is taken from (log entry 3) and the output buffer it
hands over (log entry 5) are the model's. Commands of a race: `RacedBuffersHoldAnyBytes` and
`CommandsThatReadNoRacedByteRunAsDecoded`. -/
def Obligations.StepRunsTheDecodedCommand : Prop :=
  ∀ (s : State) (r : Request) (rest : List Event) (i : Instr),
    s.port = .command r :: rest → r.racedIn = false → r.racedOut = false →
    decodeCommand r.code r.operands = .ok i →
    step s = exec i { s with port := rest, out := r.out.getD s.out }

/-- R53, R97: operand fields that are not of the command's types are refused BAD_OPERAND, raced or not. That the fields are
a list in R52's order, and that one of another length or type is BAD_OPERAND, is DEDUCED (log entry 6); the port, the buffer
handed over and the race are log entries 3, 5 and 9. -/
def Obligations.StepRefusesIllTypedOperands : Prop :=
  ∀ (s : State) (r : Request) (rest : List Event) (m : String),
    s.port = .command r :: rest → decodeCommand r.code r.operands = .error (.badOperand m) →
    step s = .next (s.settling r ((s.taking r rest).endsRefuse .badOperand))

/-- R41, R103: with no command issued the block waits, and a step takes the oldest event and no other. The port as a list of
events, and that waiting changes nothing, are the model's (DEDUCED, log entry 3). -/
def Obligations.StepWaitsOrTakesOneEvent : Prop :=
  (∀ s : State, s.port = [] → step s = .next s) ∧
  ∀ (s t : State) (e : Event) (rest : List Event), s.port = e :: rest → step s = .next t → t.port = rest

/-- R42: in a race on IN, each of the four commands that take IN reads at every offset the free value
`Config.racedByte n .input offset` in place of IN's byte, n the command's number; if OUT is raced too, every byte of OUT
after it is the free value `Config.racedByte n .output offset`. The free values and their numbering are log entry 9's. -/
def Obligations.RacedBuffersHoldAnyBytes : Prop :=
  (∀ (n : Nat) (w : RacedBuffer) (b : Bytes) (j : Nat),
    (racedBytes n w 0 b)[j]? = if j < b.length then some (Config.racedByte n w j) else none) ∧
  ∀ (s : State) (r : Request) (rest : List Event) (flag : BitVec 16) (k : Kind) (inp : Bytes),
    s.port = .command r :: rest → r.racedIn = true →
    let seen := racedBytes s.races .input 0 inp
    (r.code = 0x02#5 → r.operands = [.input inp] →
      ∃ t, exec (.hdrDec seen) (s.taking r rest) = .next t ∧ step s = .next (s.settling r t)) ∧
    (r.code = 0x06#5 → r.operands = [.u16 flag, .input inp] →
      ∃ t, exec (.plDec flag seen) (s.taking r rest) = .next t ∧ step s = .next (s.settling r t)) ∧
    (r.code = 0x09#5 → r.operands = [.kind k, .u16 flag, .input inp] →
      ∃ t, exec (.bodyDec k flag seen) (s.taking r rest) = .next t ∧ step s = .next (s.settling r t)) ∧
    (r.code = 0x0C#5 → r.operands = [.input inp] →
      ∃ t, exec (.frmDec seen) (s.taking r rest) = .next t ∧ step s = .next (s.settling r t))

/-- No behaviour is treated as stuck: every step of every state ends in a next state. -/
def Obligations.EveryStepEndsInANextState : Prop :=
  ∀ s : State, ∃ t, step s = .next t

/-! ### Encodings -/

/-- Words written out from the tables of R47 and R52 decode to their rows. -/
def Obligations.WrittenOutWordsDecodeToTheirRows : Prop :=
  decodeFrame [0x00, 0x00, 0x00, 0x07, 0x14, 0x00, 0x68, 0x69] = .ok (.frameRequestFnf 7 0 [0x68, 0x69]) ∧
  decodeFrame [0x00, 0x00, 0x00, 0x03, 0x24, 0x1F] = .ok (.frameCancel 3 0x01F []) ∧
  decodeFrame [0xFF, 0xFF, 0xFF, 0xFF, 0x3B, 0x00] = .ok (.frameResumeOk 0xFFFFFFFF 0x300 []) ∧
  decodeFrame [0x00, 0x00, 0x00, 0x01, 0x3C, 0x00] = .ok (.frameIllegal0F 1 0 []) ∧
  decodeFrame [0x00, 0x00, 0x00, 0x01, 0xFE, 0x00] = .ok (.frameIllegal20 0x1F 1 0x200 []) ∧
  decodeFrame [0x00, 0x00, 0x00, 0x01, 0x28] = .error .headerTruncated ∧
  decodeCommand 0x01 [.u32 7, .u6 5, .u16 0] = .ok (.hdrEnc 7 5 0) ∧
  decodeCommand 0x13 [.optBytes (some [1]), .optBytes none] = .ok (.bSetAll (some [1]) none) ∧
  decodeCommand 0x17 [] = .ok (.cmdReserved16 1)

/-- Decoding the encoding of any instruction gives it back: no operand bit of either encoding is dropped. -/
def Obligations.DecodeUndoesEncode : Prop :=
  ∀ i : Instr, decode (encode i) = .ok i

/-- Every buffer of six bytes or more is the encoding of exactly one frame row, the one it decodes to. -/
def Obligations.EveryWireFrameIsItsRowsEncoding : Prop :=
  ∀ b : Bytes, 6 ≤ b.length →
    ∃ i : Instr, decodeFrame b = .ok i ∧ encode i = .frame b ∧ ∀ j : Instr, encode j = .frame b → j = i

/-- R14, R47: the type code of each kind, and no other code names one. -/
def Obligations.TypeCodesNameTheFourteenKinds : Prop :=
  (Kind.setup.code = 0x01#6 ∧ Kind.lease.code = 0x02#6 ∧ Kind.keepalive.code = 0x03#6 ∧
    Kind.requestResponse.code = 0x04#6 ∧ Kind.requestFnf.code = 0x05#6 ∧ Kind.requestStream.code = 0x06#6 ∧
    Kind.requestChannel.code = 0x07#6 ∧ Kind.requestN.code = 0x08#6 ∧ Kind.cancel.code = 0x09#6 ∧
    Kind.payload.code = 0x0A#6 ∧ Kind.error.code = 0x0B#6 ∧ Kind.metadataPush.code = 0x0C#6 ∧
    Kind.resume.code = 0x0D#6 ∧ Kind.resumeOk.code = 0x0E#6) ∧
  (∀ (t : BitVec 6) (k : Kind), kindOf t = some k ↔ k.code = t) ∧
  ∀ t : BitVec 6, kindOf t = none ↔ t = 0x00#6 ∨ 0x0F ≤ t.toNat

/-! ### Header commands -/

/-- R56: HDR_ENC returns the four stream id bytes and the two bytes of the word, for every operand; it cannot fail. -/
def Obligations.HdrEncReturnsTheSixHeaderBytes : Prop :=
  ∀ (sid : BitVec 32) (type : BitVec 6) (flag : BitVec 16) (s : State),
    exec (.hdrEnc sid type flag) s = .next (s.endsOk (some (.bytes (Wire.header sid type flag))))

/-- R57: HDR_DEC on a buffer within the size limit. Fewer than six bytes are TRUNCATED without a header; otherwise the
first six bytes are split into their fields and the rest is not read. -/
def Obligations.HdrDecSplitsTheFirstSixBytes : Prop :=
  (∀ (inp : Bytes) (s : State), Fits s.params inp.length → inp.length < 6 →
    exec (.hdrDec inp) s = .next (s.endsErr ⟨.truncated, none⟩)) ∧
  ∀ (b0 b1 b2 b3 b4 b5 : Byte) (rest : Bytes) (s : State), Fits s.params (6 + rest.length) →
    exec (.hdrDec (b0 :: b1 :: b2 :: b3 :: b4 :: b5 :: rest)) s =
      .next (s.endsOk (some (.header
        ⟨b0 ++ b1 ++ b2 ++ b3, b4.extractLsb' 2 6, (b4.extractLsb' 0 2 ++ b5 : BitVec 10)⟩)))

/-- R61: HDR_DEC of what HDR_ENC returns is the header, with the flag cut to 10 bits; and HDR_ENC of what HDR_DEC reads
from six bytes is those bytes. -/
def Obligations.HeaderDecodeAndEncodeAreInverse : Prop :=
  (∀ (sid : BitVec 32) (type : BitVec 6) (flag : BitVec 16) (s : State), Fits s.params 6 →
    ∃ h t, exec (.hdrEnc sid type flag) s = .next t ∧ t.res = some (.bytes h) ∧ h.length = 6 ∧
      exec (.hdrDec h) t = .next (t.endsOk (some (.header ⟨sid, type, (flag &&& 0x03FF#16).setWidth 10⟩)))) ∧
  ∀ (h : Bytes) (s : State), h.length = 6 → Fits s.params 6 →
    ∃ hd t, exec (.hdrDec h) s = .next t ∧ t.res = some (.header hd) ∧
      exec (.hdrEnc hd.streamId hd.type (hd.flag.setWidth 16)) t = .next (t.endsOk (some (.bytes h)))

/-- R58, R59: the predicates test bit 5 and bit 6 of the flag and nothing else. -/
def Obligations.PredicatesTestBitsFiveAndSix : Prop :=
  ∀ (flag : BitVec 16) (s : State),
    exec (.hasNext flag) s = .next (s.endsOk (some (.bit (decide (flag.toNat / 32 % 2 = 1))))) ∧
    exec (.hasComplete flag) s = .next (s.endsOk (some (.bit (decide (flag.toNat / 64 % 2 = 1)))))

/-- R60: TYPE_OF returns the code of the body's kind, always one of 0x01 to 0x0E. -/
def Obligations.TypeOfReturnsTheKindsCode : Prop :=
  ∀ (body : Body) (s : State), body.typed s.params = true →
    exec (.typeOf body) s = .next (s.endsOk (some (.typeCode body.kind.code))) ∧
    1 ≤ body.kind.code.toNat ∧ body.kind.code.toNat ≤ 14

/-! ### Payload codec -/

/-- R62: PL_DEC by itself, on a run within the size limit. -/
def Obligations.PlDecReadsThePayloadLayout : Prop :=
  ∀ (flag : BitVec 16) (s : State),
    (flag.getLsbD 8 = true →
      (∀ inp : Bytes, Fits s.params inp.length → inp.length < 3 →
        exec (.plDec flag inp) s = .next (s.endsErr ⟨.truncated, none⟩)) ∧
      (∀ (a b c : Byte) (rest : Bytes), Fits s.params (3 + rest.length) →
        rest.length < a.toNat * 65536 + b.toNat * 256 + c.toNat →
        exec (.plDec flag (a :: b :: c :: rest)) s = .next (s.endsErr ⟨.lengthOverrun, none⟩)) ∧
      (∀ (a b c : Byte) (m d : Bytes), Fits s.params (3 + m.length + d.length) →
        m.length = a.toNat * 65536 + b.toNat * 256 + c.toNat →
        exec (.plDec flag (a :: b :: c :: (m ++ d))) s = .next (s.endsOk (some (.pair (some m) (Wire.data d)))))) ∧
    (flag.getLsbD 8 = false →
      ∀ inp : Bytes, Fits s.params inp.length →
        exec (.plDec flag inp) s = .next (s.endsOk (some (.pair none (Wire.data inp)))))

/-- R63, with the size limit of R97 before it: PL_ENC appends the payload layout to OUT, or faults on metadata longer than
0xFFFFFF bytes and appends nothing. That RES is then none is DEDUCED (log entry 11). -/
def Obligations.PlEncAppendsThePayloadLayout : Prop :=
  ∀ (md data : Option Bytes) (s : State), Fits s.params (Wire.payload md data).length →
    (MetadataFits md → exec (.plEnc md data) s = .next (s.endsAppending (Wire.payload md data))) ∧
    (¬ MetadataFits md → exec (.plEnc md data) s = .next (s.endsFault .encOversizeMetadata))

/-- R64: PL_LEN's number for every operand pair, and it is what PL_ENC appends whenever PL_ENC ends OK. -/
def Obligations.PlLenIsTheNumberOfBytesPlEncAppends : Prop :=
  (∀ (m d : Bytes) (s : State),
    exec (.plLen none none) s = .next (s.endsOk (some (.natural 0))) ∧
    exec (.plLen none (some d)) s = .next (s.endsOk (some (.natural d.length))) ∧
    exec (.plLen (some m) none) s = .next (s.endsOk (some (.natural (3 + m.length)))) ∧
    exec (.plLen (some m) (some d)) s = .next (s.endsOk (some (.natural (3 + m.length + d.length))))) ∧
  ∀ (md data : Option Bytes) (s t u : State) (n : Nat), exec (.plEnc md data) s = .next t → t.status = .ok →
    exec (.plLen md data) s = .next u → u.res = some (.natural n) → t.out.length = s.out.length + n

/-- R65: SPLIT of a payload-kind body returns data first, then metadata; any other body is refused. -/
def Obligations.SplitReturnsDataThenMetadata : Prop :=
  (∀ (k : PayloadKind) (n : Option (BitVec 32)) (md data : Option Bytes) (s : State),
    (k.body n md data).typed s.params = true →
    exec (.split (k.body n md data)) s = .next (s.endsOk (some (.pair data md)))) ∧
  ∀ (body : Body) (s : State), body.kind.payload? = none →
    exec (.split body) s = .next (s.endsRefuse .badOperand)

/-- R66: what PL_DEC makes of the bytes PL_ENC appends. (a), (b): with bit 8 saying whether metadata is present, the pair
comes back, but for empty data, which comes back absent. (c): bit 8 clear with metadata gives the length, the metadata and
the data as data. (d): bit 8 set without metadata is an error or some other pair. -/
def Obligations.PayloadLaws : Prop :=
  ∀ (md data : Option Bytes) (flag : BitVec 16) (s : State),
    MetadataFits md → Fits s.params (Wire.payload md data).length →
    let e := Wire.payload md data
    (∃ t, exec (.plEnc md data) s = .next t ∧ t.status = .ok ∧ t.out = s.out ++ e) ∧
    ∀ u : State, u.params = s.params →
      (flag.getLsbD 8 = md.isSome → data ≠ some [] →
        exec (.plDec flag e) u = .next (u.endsOk (some (.pair md data)))) ∧
      (flag.getLsbD 8 = md.isSome → data = some [] →
        exec (.plDec flag e) u = .next (u.endsOk (some (.pair md none)))) ∧
      (∀ m, md = some m → flag.getLsbD 8 = false →
        exec (.plDec flag e) u =
          .next (u.endsOk (some (.pair none (some (Wire.u24 m.length ++ m ++ data.getD [])))))) ∧
      (md = none → flag.getLsbD 8 = true →
        exec (.plDec flag e) u = .next (u.endsErr ⟨.truncated, none⟩) ∨
        exec (.plDec flag e) u = .next (u.endsErr ⟨.lengthOverrun, none⟩) ∨
        ∃ m' d', exec (.plDec flag e) u = .next (u.endsOk (some (.pair (some m') d'))))

/-! ### Bodies -/

/-- R68, R70, R71, R72: BODY_DEC by itself for the kinds whose layout no parameter touches, on a body within the size
limit. The four payload kinds take what PL_DEC takes; Cancel ignores its bytes; RequestN and Error begin with a 4-byte field. -/
def Obligations.BodyDecOfPlainAndFixedKinds : Prop :=
  (∀ (k : PayloadKind) (flag : BitVec 16) (inp : Bytes) (s u : State), k.hasCount = false →
    exec (.plDec flag inp) s = .next u →
    (∀ md data, u.res = some (.pair md data) →
      exec (.bodyDec k.toKind flag inp) s = .next (s.endsOk (some (.body (k.body none md data))))) ∧
    ∀ e, u.errrec = some e → exec (.bodyDec k.toKind flag inp) s = .next (s.endsErr e)) ∧
  (∀ (flag : BitVec 16) (inp : Bytes) (s : State), Fits s.params inp.length →
    exec (.bodyDec .cancel flag inp) s = .next (s.endsOk (some (.body .cancel)))) ∧
  (∀ (flag : BitVec 16) (inp : Bytes) (s : State), Fits s.params inp.length → inp.length < 4 →
    exec (.bodyDec .requestN flag inp) s = .next (s.endsErr ⟨.truncated, none⟩) ∧
    exec (.bodyDec .error flag inp) s = .next (s.endsErr ⟨.truncated, none⟩)) ∧
  ∀ (flag : BitVec 16) (a b c d : Byte) (rest : Bytes) (s : State), Fits s.params (4 + rest.length) →
    exec (.bodyDec .requestN flag (a :: b :: c :: d :: rest)) s =
      .next (s.endsOk (some (.body (.requestN (a ++ b ++ c ++ d))))) ∧
    exec (.bodyDec .error flag (a :: b :: c :: d :: rest)) s =
      .next (s.endsOk (some (.body (.error (a ++ b ++ c ++ d) rest))))

/-- R69: BODY_DEC by itself for RequestStream and RequestChannel, under both settings of P_REQN_PREFIX. -/
def Obligations.BodyDecOfRequestStreamAndChannel : Prop :=
  ∀ (k : PayloadKind) (flag : BitVec 16) (s : State), k.hasCount = true →
    (s.params.reqnPrefix = false → ∀ (inp : Bytes) (u : State), exec (.plDec flag inp) s = .next u →
      (∀ md data, u.res = some (.pair md data) →
        exec (.bodyDec k.toKind flag inp) s = .next (s.endsOk (some (.body (k.body none md data))))) ∧
      ∀ e, u.errrec = some e → exec (.bodyDec k.toKind flag inp) s = .next (s.endsErr e)) ∧
    (s.params.reqnPrefix = true →
      (∀ inp : Bytes, Fits s.params inp.length → inp.length < 4 →
        exec (.bodyDec k.toKind flag inp) s = .next (s.endsErr ⟨.truncated, none⟩)) ∧
      ∀ (a b c d : Byte) (rest : Bytes) (u : State), Fits s.params (4 + rest.length) →
        exec (.plDec flag rest) s = .next u →
        (∀ md data, u.res = some (.pair md data) →
          exec (.bodyDec k.toKind flag (a :: b :: c :: d :: rest)) s =
            .next (s.endsOk (some (.body (k.body (some (a ++ b ++ c ++ d)) md data))))) ∧
        ∀ e, u.errrec = some e →
          exec (.bodyDec k.toKind flag (a :: b :: c :: d :: rest)) s = .next (s.endsErr e))

/-- R73: the external unit decodes the five external bodies, given the ten low flag bits; its verdict is the command's. -/
def Obligations.BodyDecAsksTheExternalUnit : Prop :=
  ∀ (flag : BitVec 16) (inp : Bytes) (s : State), Fits s.params inp.length →
    let verdict (k : ExtKind) (make : ExtValue → Body) : State :=
      match Config.extDecode k ((flag &&& 0x03FF#16).setWidth 10) inp with
      | .value v => s.endsOk (some (.body (make v)))
      | .error .lengthOverrun => s.endsErr ⟨.lengthOverrun, none⟩
      | .error .truncated => s.endsErr ⟨.truncated, none⟩
    exec (.bodyDec .setup flag inp) s = .next (verdict .setup .setup) ∧
    exec (.bodyDec .lease flag inp) s = .next (verdict .lease .lease) ∧
    exec (.bodyDec .keepalive flag inp) s = .next (verdict .keepalive .keepalive) ∧
    exec (.bodyDec .resume flag inp) s = .next (verdict .resume .resume) ∧
    exec (.bodyDec .resumeOk flag inp) s = .next (verdict .resumeOk .resumeOk)

/-- R74, with the size limit of R97 before it: BODY_ENC appends the body's bytes, of every kind, or faults on oversize
metadata and appends nothing. That RES is then none is DEDUCED (log entry 11). -/
def Obligations.BodyEncAppendsTheBodysBytes : Prop :=
  ∀ (body : Body) (s : State), body.typed s.params = true → Fits s.params (Wire.body body).length →
    (MetadataFits body.metadata → exec (.bodyEnc body) s = .next (s.endsAppending (Wire.body body))) ∧
    (¬ MetadataFits body.metadata → exec (.bodyEnc body) s = .next (s.endsFault .encOversizeMetadata))

/-- R75: BODY_LEN answers, whether BODY_ENC would fault or not. -/
def Obligations.BodyLenAnswersForEveryBody : Prop :=
  ∀ (body : Body) (s : State), body.typed s.params = true →
    exec (.bodyLen body) s = .next (s.endsOk (some (.natural (Wire.body body).length)))

/-- R77: BODY_LEN is the number of bytes BODY_ENC appends; and BODY_DEC of those bytes is the body, for the payload and
fixed kinds under R77's conditions. -/
def Obligations.BodyLengthAndRoundTrip : Prop :=
  (∀ (body : Body) (s t u : State) (n : Nat), exec (.bodyEnc body) s = .next t → t.status = .ok →
    exec (.bodyLen body) s = .next u → u.res = some (.natural n) → t.out.length = s.out.length + n) ∧
  ∀ (body : Body) (flag : BitVec 16) (s u : State),
    body.typed s.params = true → Fits s.params (Wire.body body).length → u.params = s.params →
    body.kind.isExternal = false → body.RoundTrips flag →
    (∃ t, exec (.bodyEnc body) s = .next t ∧ t.status = .ok ∧ t.out = s.out ++ Wire.body body) ∧
    exec (.bodyDec body.kind flag (Wire.body body)) u = .next (u.endsOk (some (.body body)))

/-! ### Frames -/

/-- R78 read with the opcode table: FRM_DEC of six bytes or more runs the row of the frame's type code. -/
def Obligations.FrmDecRunsTheRowOfTheFrame : Prop :=
  ∀ (b : Bytes) (i : Instr) (s : State), decodeFrame b = .ok i → exec (.frmDec b) s = exec i s

/-- R78, within the size limit. Fewer than six bytes are TRUNCATED without a header. Otherwise the first six bytes are the
header; a type code that names no kind is ILLEGAL_FRAME_TYPE with that header; and the bytes after it are decoded as BODY_DEC
decodes a body of the kind under the wire flag zero-extended: its body goes into the frame, its error gets the header. -/
def Obligations.FrmDecDecodesOneFrame : Prop :=
  (∀ (b : Bytes) (s : State), Fits s.params b.length → b.length < 6 →
    exec (.frmDec b) s = .next (s.endsErr ⟨.truncated, none⟩)) ∧
  ∀ (b0 b1 b2 b3 b4 b5 : Byte) (rest : Bytes) (s : State), Fits s.params (6 + rest.length) →
    let sid := b0 ++ b1 ++ b2 ++ b3
    let type := b4.extractLsb' 2 6
    let f : BitVec 10 := b4.extractLsb' 0 2 ++ b5
    (kindOf type = none →
      exec (.frmDec (b0 :: b1 :: b2 :: b3 :: b4 :: b5 :: rest)) s =
        .next (s.endsErr ⟨.illegalFrameType, some ⟨sid, type, f⟩⟩)) ∧
    ∀ (k : Kind) (u : State), k.code = type → exec (.bodyDec k (f.setWidth 16) rest) s = .next u →
      (∀ body, u.res = some (.body body) →
        exec (.frmDec (b0 :: b1 :: b2 :: b3 :: b4 :: b5 :: rest)) s =
          .next (s.endsOk (some (.frame ⟨sid, f.setWidth 16, body⟩)))) ∧
      ∀ c, u.errrec = some ⟨c, none⟩ →
        exec (.frmDec (b0 :: b1 :: b2 :: b3 :: b4 :: b5 :: rest)) s = .next (s.endsErr ⟨c, some ⟨sid, type, f⟩⟩)

/-- R78: a frame row of any kind decodes its body as BODY_DEC does, puts the value in a frame whose flag is the wire flag
zero-extended, and puts the header into the record of an error. That a row is an instruction of its own, of 6 + |body| bytes,
is the model's (DEDUCED and DESIGN CHOICE, log entry 10). -/
def Obligations.FrameRowsDecodeTheBodyOfTheirKind : Prop :=
  ∀ (k : Kind) (sid : BitVec 32) (f : BitVec 10) (body : Bytes) (s u : State),
    Fits s.params (6 + body.length) → exec (.bodyDec k (f.setWidth 16) body) s = .next u →
    (∀ b, u.res = some (.body b) →
      exec (frameOfKind k sid f body) s = .next (s.endsOk (some (.frame ⟨sid, f.setWidth 16, b⟩)))) ∧
    ∀ c, u.errrec = some ⟨c, none⟩ →
      exec (frameOfKind k sid f body) s = .next (s.endsErr ⟨c, some ⟨sid, k.code, f⟩⟩)

/-- R68 and R78: frames of RequestResponse, RequestFNF, Payload and MetadataPush with bit 8 clear, and with bit 8 set and
a metadata length that fits the body. Rows as instructions: log entry 10. -/
def Obligations.PlainPayloadFramesDecode : Prop :=
  ∀ (sid : BitVec 32) (f : BitVec 10) (s : State),
    (∀ body : Bytes, f.getLsbD 8 = false → Fits s.params (6 + body.length) →
      exec (.frameRequestResponse sid f body) s =
        .next (s.endsOk (some (.frame ⟨sid, f.setWidth 16, .requestResponse none (Wire.data body)⟩))) ∧
      exec (.frameRequestFnf sid f body) s =
        .next (s.endsOk (some (.frame ⟨sid, f.setWidth 16, .requestFnf none (Wire.data body)⟩))) ∧
      exec (.framePayload sid f body) s =
        .next (s.endsOk (some (.frame ⟨sid, f.setWidth 16, .payload none (Wire.data body)⟩))) ∧
      exec (.frameMetadataPush sid f body) s =
        .next (s.endsOk (some (.frame ⟨sid, f.setWidth 16, .metadataPush none (Wire.data body)⟩)))) ∧
    ∀ m d : Bytes, f.getLsbD 8 = true → m.length ≤ 0xFFFFFF → Fits s.params (9 + m.length + d.length) →
      exec (.frameRequestResponse sid f (Wire.u24 m.length ++ m ++ d)) s =
        .next (s.endsOk (some (.frame ⟨sid, f.setWidth 16, .requestResponse (some m) (Wire.data d)⟩))) ∧
      exec (.frameRequestFnf sid f (Wire.u24 m.length ++ m ++ d)) s =
        .next (s.endsOk (some (.frame ⟨sid, f.setWidth 16, .requestFnf (some m) (Wire.data d)⟩))) ∧
      exec (.framePayload sid f (Wire.u24 m.length ++ m ++ d)) s =
        .next (s.endsOk (some (.frame ⟨sid, f.setWidth 16, .payload (some m) (Wire.data d)⟩))) ∧
      exec (.frameMetadataPush sid f (Wire.u24 m.length ++ m ++ d)) s =
        .next (s.endsOk (some (.frame ⟨sid, f.setWidth 16, .metadataPush (some m) (Wire.data d)⟩)))

/-- R69 and R78: frames of RequestStream and RequestChannel, with and without the 4-byte count, bit 8 clear or set.
Rows as instructions: log entry 10. -/
def Obligations.StreamAndChannelFramesDecode : Prop :=
  ∀ (sid : BitVec 32) (f : BitVec 10) (n : Option (BitVec 32)) (md data : Option Bytes) (s : State),
    n.isSome = s.params.reqnPrefix → f.getLsbD 8 = md.isSome → MetadataFits md → data ≠ some [] →
    Fits s.params (6 + (Wire.count n ++ Wire.payload md data).length) →
    exec (.frameRequestStream sid f (Wire.count n ++ Wire.payload md data)) s =
      .next (s.endsOk (some (.frame ⟨sid, f.setWidth 16, .requestStream n md data⟩))) ∧
    exec (.frameRequestChannel sid f (Wire.count n ++ Wire.payload md data)) s =
      .next (s.endsOk (some (.frame ⟨sid, f.setWidth 16, .requestChannel n md data⟩)))

/-- R70, R71, R72 and R78: frames of Cancel, RequestN and Error. Rows as instructions: log entry 10. -/
def Obligations.CancelRequestNAndErrorFramesDecode : Prop :=
  ∀ (sid : BitVec 32) (f : BitVec 10) (rest : Bytes) (s : State),
    (Fits s.params (6 + rest.length) →
      exec (.frameCancel sid f rest) s = .next (s.endsOk (some (.frame ⟨sid, f.setWidth 16, .cancel⟩)))) ∧
    (∀ n : BitVec 32, Fits s.params (10 + rest.length) →
      exec (.frameRequestN sid f (Wire.u32 n ++ rest)) s =
        .next (s.endsOk (some (.frame ⟨sid, f.setWidth 16, .requestN n⟩))) ∧
      exec (.frameError sid f (Wire.u32 n ++ rest)) s =
        .next (s.endsOk (some (.frame ⟨sid, f.setWidth 16, .error n rest⟩)))) ∧
    (Fits s.params (6 + rest.length) → rest.length < 4 →
      exec (.frameRequestN sid f rest) s = .next (s.endsErr ⟨.truncated, some ⟨sid, 0x08#6, f⟩⟩) ∧
      exec (.frameError sid f rest) s = .next (s.endsErr ⟨.truncated, some ⟨sid, 0x0B#6, f⟩⟩))

/-- R73 and R78: frames of the five external kinds end as the external unit says, with the header in an error's record.
Rows as instructions: log entry 10. -/
def Obligations.ExternalFramesEndAsTheExternalUnitSays : Prop :=
  ∀ (sid : BitVec 32) (f : BitVec 10) (body : Bytes) (s : State), Fits s.params (6 + body.length) →
    let verdict (k : ExtKind) (make : ExtValue → Body) (code : BitVec 6) : State :=
      match Config.extDecode k f body with
      | .value v => s.endsOk (some (.frame ⟨sid, f.setWidth 16, make v⟩))
      | .error .lengthOverrun => s.endsErr ⟨.lengthOverrun, some ⟨sid, code, f⟩⟩
      | .error .truncated => s.endsErr ⟨.truncated, some ⟨sid, code, f⟩⟩
    exec (.frameSetup sid f body) s = .next (verdict .setup .setup 0x01#6) ∧
    exec (.frameLease sid f body) s = .next (verdict .lease .lease 0x02#6) ∧
    exec (.frameKeepalive sid f body) s = .next (verdict .keepalive .keepalive 0x03#6) ∧
    exec (.frameResume sid f body) s = .next (verdict .resume .resume 0x0D#6) ∧
    exec (.frameResumeOk sid f body) s = .next (verdict .resumeOk .resumeOk 0x0E#6)

/-- R54, R90: the four rows of type codes that name no kind end ILLEGAL_FRAME_TYPE with the header, whatever the body and
whatever the IGNORE bit. R90 says so of FRM_DEC; a row that ends so by itself is log entry 10's. -/
def Obligations.IllegalFrameRowsReportTheirHeader : Prop :=
  ∀ (sid : BitVec 32) (f : BitVec 10) (body : Bytes) (s : State), Fits s.params (6 + body.length) →
    exec (.frameIllegal00 sid f body) s = .next (s.endsErr ⟨.illegalFrameType, some ⟨sid, 0x00#6, f⟩⟩) ∧
    exec (.frameIllegal0F sid f body) s = .next (s.endsErr ⟨.illegalFrameType, some ⟨sid, 0x0F#6, f⟩⟩) ∧
    (∀ low : BitVec 4, exec (.frameIllegal10 low sid f body) s =
      .next (s.endsErr ⟨.illegalFrameType, some ⟨sid, BitVec.ofNat 6 (16 + low.toNat), f⟩⟩)) ∧
    ∀ low : BitVec 5, exec (.frameIllegal20 low sid f body) s =
      .next (s.endsErr ⟨.illegalFrameType, some ⟨sid, BitVec.ofNat 6 (32 + low.toNat), f⟩⟩)

/-- R90: FRM_DEC of six bytes or more, within the size limit, reports ILLEGAL_FRAME_TYPE exactly when the type code is 0x00
or 0x0F to 0x3F, with the header it read; and among the commands only FRM_DEC reports it. -/
def Obligations.IllegalFrameTypeExactlyOnCodesWithoutAKind : Prop :=
  (∀ (b0 b1 b2 b3 b4 b5 : Byte) (rest : Bytes) (s : State), Fits s.params (6 + rest.length) →
    ((b4.toNat / 4 = 0 ∨ 0x0F ≤ b4.toNat / 4) ↔
      exec (.frmDec (b0 :: b1 :: b2 :: b3 :: b4 :: b5 :: rest)) s =
        .next (s.endsErr ⟨.illegalFrameType, some
          ⟨b0 ++ b1 ++ b2 ++ b3, b4.extractLsb' 2 6, (b4.extractLsb' 0 2 ++ b5 : BitVec 10)⟩⟩))) ∧
  ∀ (code : BitVec 5) (ops : List Operand) (i : Instr) (h : Option Header) (s t : State),
    decodeCommand code ops = .ok i → exec i s = .next t → t.outcome = some (.err ⟨.illegalFrameType, h⟩) →
    code = 0x0C#5

/-- R79, with the size limit of R97 before it: FRM_WRITE appends header and body, or faults on oversize metadata and
appends nothing. That RES is then none is DEDUCED (log entry 11). -/
def Obligations.FrmWriteAppendsTheFrame : Prop :=
  ∀ (f : Frame) (s : State), f.body.typed s.params = true → Fits s.params (Wire.frame f).length →
    (MetadataFits f.body.metadata → exec (.frmWrite f) s = .next (s.endsAppending (Wire.frame f))) ∧
    (¬ MetadataFits f.body.metadata → exec (.frmWrite f) s = .next (s.endsFault .encOversizeMetadata))

/-- R80: FRM_ENC is FRM_WRITE to an empty OUT that is then the result; the caller's OUT is not touched. -/
def Obligations.FrmEncIsFrmWriteToAnEmptyBuffer : Prop :=
  ∀ (f : Frame) (s : State),
    ∃ t u, exec (.frmWrite f) { s with out := [] } = .next t ∧ exec (.frmEnc f) s = .next u ∧
      u.status = t.status ∧ u.out = s.out ∧
      (t.status = .ok → u = s.endsOk (some (.bytes t.out))) ∧
      (t.status ≠ .ok → u = { t with out := s.out })

/-- R80 for a frame that encodes: FRM_ENC returns the frame's bytes. That the size limit counts them is DEDUCED (log
entry 15). -/
def Obligations.FrmEncReturnsTheFramesBytes : Prop :=
  ∀ (f : Frame) (s : State), f.body.typed s.params = true → Fits s.params (Wire.frame f).length →
    MetadataFits f.body.metadata →
    exec (.frmEnc f) s = .next (s.endsOk (some (.bytes (Wire.frame f))))

/-- R81: FRM_LEN is 6 more than BODY_LEN, faulting frames included, and is what FRM_WRITE appends when it ends OK. -/
def Obligations.FrmLenIsSixMoreThanBodyLen : Prop :=
  (∀ (f : Frame) (s : State), f.body.typed s.params = true →
    ∃ n u, exec (.bodyLen f.body) s = .next u ∧ u.res = some (.natural n) ∧
      exec (.frmLen f) s = .next (s.endsOk (some (.natural (6 + n))))) ∧
  ∀ (f : Frame) (s t u : State) (n : Nat), exec (.frmWrite f) s = .next t → t.status = .ok →
    exec (.frmLen f) s = .next u → u.res = some (.natural n) → t.out.length = s.out.length + n

/-- R82, first law: FRM_DEC of what FRM_ENC returns for a canonical frame is that frame. -/
def Obligations.CanonicalFramesRoundTrip : Prop :=
  ∀ (f : Frame) (s u : State), f.Canonical → f.body.typed s.params = true → Fits s.params (Wire.frame f).length →
    u.params = s.params →
    exec (.frmEnc f) s = .next (s.endsOk (some (.bytes (Wire.frame f)))) ∧
    exec (.frmDec (Wire.frame f)) u = .next (u.endsOk (some (.frame f)))

/-- R82, second law: what FRM_DEC accepts, FRM_ENC gives back: the same bytes for a payload-kind or Error body, and the
bytes up to the end of the fixed fields for Cancel and RequestN. -/
def Obligations.AcceptedBytesReencode : Prop :=
  ∀ (b : Bytes) (f : Frame) (s t : State), exec (.frmDec b) s = .next t → t.res = some (.frame f) →
    (f.body.kind.payload?.isSome = true ∨ f.body.kind = .error →
      exec (.frmEnc f) t = .next (t.endsOk (some (.bytes b)))) ∧
    (f.body.kind = .cancel → exec (.frmEnc f) t = .next (t.endsOk (some (.bytes (b.take 6))))) ∧
    (f.body.kind = .requestN → exec (.frmEnc f) t = .next (t.endsOk (some (.bytes (b.take 10)))))

/-- R105: a buffer longer than one frame: after a payload-kind frame the extra bytes become data, after an Error frame they
become message, and there is no error. -/
def Obligations.BytesAfterAFrameBecomeDataOrMessage : Prop :=
  (∀ (b extra : Bytes) (sid : BitVec 32) (flag : BitVec 16) (k : PayloadKind) (n : Option (BitVec 32))
    (md data : Option Bytes) (s t : State),
    exec (.frmDec b) s = .next t → t.res = some (.frame ⟨sid, flag, k.body n md data⟩) →
    Fits s.params (b ++ extra).length →
    exec (.frmDec (b ++ extra)) s =
      .next (s.endsOk (some (.frame ⟨sid, flag, k.body n md (Wire.data (data.getD [] ++ extra))⟩)))) ∧
  ∀ (b extra : Bytes) (sid : BitVec 32) (flag : BitVec 16) (code : BitVec 32) (message : Bytes) (s t : State),
    exec (.frmDec b) s = .next t → t.res = some (.frame ⟨sid, flag, .error code message⟩) →
    Fits s.params (b ++ extra).length →
    exec (.frmDec (b ++ extra)) s = .next (s.endsOk (some (.frame ⟨sid, flag, .error code (message ++ extra)⟩)))

/-! ### Builder -/

/-- R83: B_INIT refuses a kind that is not a payload kind, then an open builder; otherwise it opens one with bit 8 of the
flag cleared and no metadata or data, and takes the count only where the frame has one. -/
def Obligations.BInitOpensABuilder : Prop :=
  ∀ (sid : BitVec 32) (flag : BitVec 16) (initn : BitVec 32) (s : State),
    (∀ kind : Kind, kind.payload? = none →
      exec (.bInit kind sid flag initn) s = .next (s.endsRefuse .badOperand)) ∧
    (∀ k : PayloadKind, s.bldValid = true →
      exec (.bInit k.toKind sid flag initn) s = .next (s.endsRefuse .builderBusy)) ∧
    ∀ k : PayloadKind, s.bldValid = false →
      exec (.bInit k.toKind sid flag initn) s = .next
        (State.endsOk
          { s with
            bldValid := true, bldKind := k, bldSid := sid
            bldFlag := flag &&& 0xFEFF#16, bldMd := none, bldData := none
            bldInitn := if s.params.reqnPrefix = true ∧ (k = .requestStream ∨ k = .requestChannel) then initn
              else s.bldInitn } none)

/-- R84, R85, R86: the setters, each on an open builder and refused NO_BUILDER without one; and among all instructions only
B_SET_ALL, with no metadata, clears bit 8 of an open builder. -/
def Obligations.SettersUpdateFieldAndFlagTogether : Prop :=
  ∀ s : State,
    (s.bldValid = true →
      (∀ m : Bytes, exec (.bSetMd m) s = .next
        (State.endsOk { s with bldMd := some m, bldFlag := s.bldFlag ||| 0x0100#16 } none)) ∧
      (∀ d : Bytes, exec (.bSetData d) s = .next (State.endsOk { s with bldData := some d } none)) ∧
      (∀ data : Option Bytes, exec (.bSetAll data none) s = .next
        (State.endsOk { s with bldData := data, bldMd := none, bldFlag := s.bldFlag &&& 0xFEFF#16 } none)) ∧
      ∀ (data : Option Bytes) (m : Bytes), exec (.bSetAll data (some m)) s = .next
        (State.endsOk { s with bldData := data, bldMd := some m, bldFlag := s.bldFlag ||| 0x0100#16 } none)) ∧
    (s.bldValid = false → ∀ (b : Bytes) (data md : Option Bytes),
      exec (.bSetMd b) s = .next (s.endsRefuse .noBuilder) ∧
      exec (.bSetData b) s = .next (s.endsRefuse .noBuilder) ∧
      exec (.bSetAll data md) s = .next (s.endsRefuse .noBuilder)) ∧
    ∀ (i : Instr) (t : State), s.bldValid = true → s.bldFlag.getLsbD 8 = true → exec i s = .next t →
      t.bldFlag.getLsbD 8 = false → ∃ data, i = .bSetAll data none

/-- R87: B_BUILD closes the builder and returns the frame in its registers, with the count exactly where the frame has
one; without a builder it is refused. -/
def Obligations.BBuildReturnsTheFrameAndCloses : Prop :=
  ∀ s : State,
    (s.bldValid = true → exec .bBuild s = .next
      (State.endsOk { s with bldValid := false }
        (some (.frame ⟨s.bldSid, s.bldFlag,
          s.bldKind.body (if s.params.reqnPrefix = true ∧ (s.bldKind = .requestStream ∨ s.bldKind = .requestChannel)
            then some s.bldInitn else none) s.bldMd s.bldData⟩)))) ∧
    (s.bldValid = false → exec .bBuild s = .next (s.endsRefuse .noBuilder))

/-- R88: every step keeps the builder invariant; hence the frame B_BUILD returns has bit 8 exactly when it has metadata,
and is canonical under R88's further conditions. -/
def Obligations.BuilderInvariantIsKept : Prop :=
  (∀ s t : State, s.BuilderConsistent → step s = .next t → t.BuilderConsistent) ∧
  ∀ (s t : State) (f : Frame), s.BuilderConsistent → exec .bBuild s = .next t → t.res = some (.frame f) →
    f.flag.getLsbD 8 = f.body.metadata.isSome ∧
    (s.bldFlag.toNat < 1024 → s.bldData ≠ some [] → MetadataFits s.bldMd → f.Canonical)

/-! ### The whole machine -/

/-- Reset meets the invariants. That no outcome has been returned is the model's own field (log entries 4 and 13). -/
def Obligations.ResetMeetsTheInvariants : Prop :=
  State.reset.BuilderConsistent ∧ State.reset.StatusConsistent ∧ State.reset.Clean

/-- R26, R27, R28: the status registers agree with one another after every step from a state where they do. The returned
outcome among them is the model's own field (log entry 4). -/
def Obligations.StatusInvariantIsKept : Prop :=
  ∀ s t : State, s.StatusConsistent → step s = .next t → t.StatusConsistent

/-- R13, R26, R27, R28: every instruction answers with exactly one of the four outcomes, recorded as the rules say. The field
that holds the outcome itself is the model's own (log entry 4). -/
def Obligations.EveryCommandRecordsOneOutcome : Prop :=
  ∀ (i : Instr) (s : State), ∃ (o : CmdOutcome) (t : State), exec i s = .next t ∧ t.outcome = some o ∧
    match o with
    | .ok v => t.status = .ok ∧ t.res = v ∧ t.errrec = none ∧ t.faulted = s.faulted ∧ t.refused = s.refused
    | .err e => t.status = .err ∧ t.res = none ∧ t.errrec = some e ∧ t.faulted = s.faulted ∧ t.refused = s.refused
    | .fault _ => t.status = .fault ∧ t.res = none ∧ t.errrec = none ∧ t.faulted = true ∧ t.refused = s.refused
    | .refuse _ => t.status = .refuse ∧ t.res = none ∧ t.errrec = none ∧ t.faulted = s.faulted ∧ t.refused = true

/-- R13, R94, R97: a command that does not end OK leaves everything but the status registers, the sticky marks and the
returned outcome as it was: no output byte, no builder register. -/
def Obligations.ACommandThatDoesNotEndOkChangesOnlyItsStatus : Prop :=
  ∀ (i : Instr) (s t : State), exec i s = .next t → t.status ≠ .ok →
    t = { s with status := t.status, res := none, errrec := t.errrec, faulted := t.faulted, refused := t.refused,
                 outcome := t.outcome }

/-- R13, R89, R94: only decode commands, and the frames they read, end with a FrameDecodeError; the error is precise. -/
def Obligations.OnlyDecodingEndsWithAPreciseError : Prop :=
  ∀ (i : Instr) (s t : State), exec i s = .next t → t.status = .err →
    i.family = .decoding ∧ ∃ e, t = s.endsErr e

/-- R96: a model fault is ENC_OVERSIZE_METADATA and comes exactly from an encoding command whose operands are of their
types and within the size limit and whose metadata is longer than 0xFFFFFF bytes. That a body operand without its count is
not of its type is DEDUCED (log entry 6), and so is what the size limit counts (log entry 15). -/
def Obligations.FaultExactlyOnOversizeMetadata : Prop :=
  ∀ (i : Instr) (s t : State), exec i s = .next t →
    (t.outcome = some (.fault .encOversizeMetadata) ↔
      i.WellFormed s.params = true ∧ (∀ n, i.bufferSize = some n → Fits s.params n) ∧
        ¬ MetadataFits i.metadataToEncode) ∧
    (t.status = .fault → t = s.endsFault .encOversizeMetadata)

/-- R97 (and R93, C9): each refusal comes exactly under its condition, the earlier rows of R97's table first, and changes
nothing but the status registers and its mark. That a body operand without its count is BAD_OPERAND is DEDUCED (log entry 6),
the size of a FRAME row is log entry 10's, and what the size limit counts is DEDUCED (log entry 15). -/
def Obligations.RefusalsExactlyInTheirOrder : Prop :=
  ∀ (i : Instr) (s t : State), exec i s = .next t →
    (t.outcome = some (.refuse .reservedCommand) ↔ i.family = .reserved) ∧
    (t.outcome = some (.refuse .badOperand) ↔ i.WellFormed s.params = false) ∧
    (t.outcome = some (.refuse .bufferTooLarge) ↔
      i.WellFormed s.params = true ∧ ∃ n, i.bufferSize = some n ∧ ¬ Fits s.params n) ∧
    (t.outcome = some (.refuse .builderBusy) ↔
      (∃ k sid flag initn, i = .bInit (PayloadKind.toKind k) sid flag initn) ∧ s.bldValid = true) ∧
    (t.outcome = some (.refuse .noBuilder) ↔ i.needsBuilder = true ∧ s.bldValid = false) ∧
    (t.status = .refuse → ∃ r, t = s.endsRefuse r)

/-- R53: every reserved command code decodes to a reserved row whatever operand fields come with it, and is refused. -/
def Obligations.ReservedCommandsAreRefused : Prop :=
  (∀ (code : BitVec 5) (ops : List Operand), code = 0 ∨ 0x16 ≤ code.toNat →
    ∃ i, decodeCommand code ops = .ok i ∧ i.family = .reserved) ∧
  ∀ s : State,
    exec .cmdReserved00 s = .next (s.endsRefuse .reservedCommand) ∧
    (∀ low, exec (.cmdReserved16 low) s = .next (s.endsRefuse .reservedCommand)) ∧
    ∀ low, exec (.cmdReserved18 low) s = .next (s.endsRefuse .reservedCommand)

/-- R28: a sticky mark that is set stays set over every step but a reset, and is set by a fault or a refusal only.
The port is log entry 3's. -/
def Obligations.StickyMarksStayUntilReset : Prop :=
  ∀ s t : State, step s = .next t → (∀ rest, s.port ≠ .reset :: rest) →
    (s.faulted = true → t.faulted = true) ∧ (s.refused = true → t.refused = true) ∧
    (s.faulted = false → t.faulted = true → t.status = .fault) ∧
    (s.refused = false → t.refused = true → t.status = .refuse)

/-- R25: only builder commands write builder registers; no instruction writes the parameters, the port or the race
counter. The port and the counter are the model's own fields (log entries 3 and 9). -/
def Obligations.OnlyBuilderCommandsWriteTheBuilder : Prop :=
  ∀ (i : Instr) (s t : State), exec i s = .next t →
    (i.family ≠ .building →
      t.bldValid = s.bldValid ∧ t.bldKind = s.bldKind ∧ t.bldSid = s.bldSid ∧ t.bldFlag = s.bldFlag ∧
      t.bldMd = s.bldMd ∧ t.bldData = s.bldData ∧ t.bldInitn = s.bldInitn) ∧
    t.params = s.params ∧ t.port = s.port ∧ t.races = s.races

/-- R37, R38: OUT is append-only, and only PL_ENC, BODY_ENC and FRM_WRITE that end OK append to it. Every byte OUT held
reads as before. -/
def Obligations.OutIsAppendOnly : Prop :=
  ∀ (i : Instr) (s t : State), exec i s = .next t →
    (∀ a, a < s.out.length → t.out[a]? = s.out[a]?) ∧ s.out.length ≤ t.out.length ∧
    (s.out.length < t.out.length → i.family = .toOut ∧ t.status = .ok) ∧
    (i.family = .toOut → t.status = .ok → ∃ n, i.bufferSize = some n ∧ t.out.length = s.out.length + n)

/-- R29: a command's outcome depends only on its operands, the builder registers and the parameters: two states that agree
there answer alike, whatever else differs. -/
def Obligations.OutcomeDependsOnlyOnOperandsBuilderAndParameters : Prop :=
  ∀ (i : Instr) (s u : State), s.params = u.params → s.bldValid = u.bldValid → s.bldKind = u.bldKind →
    s.bldSid = u.bldSid → s.bldFlag = u.bldFlag → s.bldMd = u.bldMd → s.bldData = u.bldData →
    s.bldInitn = u.bldInitn →
    ∃ t v e, exec i s = .next t ∧ exec i u = .next v ∧ t.outcome = v.outcome ∧ t.status = v.status ∧
      t.res = v.res ∧ t.errrec = v.errrec ∧ t.out = s.out ++ e ∧ v.out = u.out ++ e

/-! ### Races -/

/-- R41, R42: a command whose IN no other agent writes, or that takes no IN, runs as decoded whatever else is raced; if OUT
is raced, every byte of OUT after it is a free value, and nothing else changes. Rests on log entries 3, 5 and 9. -/
def Obligations.CommandsThatReadNoRacedByteRunAsDecoded : Prop :=
  ∀ (s : State) (r : Request) (rest : List Event) (i : Instr),
    s.port = .command r :: rest → (r.racedIn = false ∨ ∀ b : Bytes, Operand.input b ∉ r.operands) →
    decodeCommand r.code r.operands = .ok i →
    ∃ t, exec i (s.taking r rest) = .next t ∧ step s = .next (s.settling r t)
end

