-- ==== Sys2Proof/Laws/Bytes.lean ====
section
/-! SUPPORT. What the byte order helpers do: reading back what was written, lengths, slices of concatenations. -/

namespace Sys2Proof

/-! ### Slices -/

@[simp] theorem slice_zero_length (b : Bytes) : slice b 0 b.length = b := by simp [slice]

theorem slice_to_end (b : Bytes) (lo : Nat) : slice b lo b.length = b.drop lo := by simp [slice]

@[simp] theorem length_slice (b : Bytes) (lo hi : Nat) :
    (slice b lo hi).length = min (hi - lo) (b.length - lo) := by simp [slice]

theorem slice_append_left (a b : Bytes) (lo hi : Nat) (h : hi ≤ a.length) : slice (a ++ b) lo hi = slice a lo hi := by
  simp only [slice, List.drop_append, List.take_append, List.length_drop]
  rw [show hi - lo - (a.length - lo) = 0 by omega]
  simp

theorem slice_append_right (a b : Bytes) (hi : Nat) :
    slice (a ++ b) a.length (a.length + hi) = b.take hi := by simp [slice]

/-! ### Big-endian values -/

@[simp] theorem beValue_nil : beValue [] = 0 := rfl

theorem beValue_foldl (acc : Nat) (b : Bytes) :
    b.foldl (fun acc x => acc * 256 + x.toNat) acc = acc * 256 ^ b.length + beValue b := by
  induction b generalizing acc with
  | nil => simp [beValue]
  | cons x b ih =>
    simp only [beValue, List.foldl_cons, List.length_cons]
    rw [ih, ih (0 * 256 + x.toNat)]
    ring

theorem beValue_cons (x : Byte) (b : Bytes) : beValue (x :: b) = x.toNat * 256 ^ b.length + beValue b := by
  rw [beValue, List.foldl_cons, beValue_foldl]
  simp

theorem beValue_append (a b : Bytes) : beValue (a ++ b) = beValue a * 256 ^ b.length + beValue b := by
  rw [beValue, List.foldl_append, beValue_foldl]
  rfl

theorem beValue_lt (b : Bytes) : beValue b < 256 ^ b.length := by
  induction b with
  | nil => simp
  | cons x b ih =>
    rw [beValue_cons, List.length_cons, pow_succ]
    have hx : x.toNat + 1 ≤ 256 := x.isLt
    calc x.toNat * 256 ^ b.length + beValue b
        < (x.toNat + 1) * 256 ^ b.length := by rw [Nat.add_mul, Nat.one_mul]; omega
      _ ≤ 256 ^ b.length * 256 := by rw [Nat.mul_comm]; exact Nat.mul_le_mul_left _ hx

@[simp] theorem length_be (n v : Nat) : (be n v).length = n := by
  induction n with
  | zero => rfl
  | succ n ih => simp [be, ih]

theorem beValue_be (n v : Nat) : beValue (be n v) = v % 256 ^ n := by
  induction n with
  | zero => simp [be, Nat.mod_one]
  | succ n ih =>
    rw [be, beValue_cons, length_be, ih, BitVec.toNat_ofNat, pow_succ 256 n,
      show v % (256 ^ n * 256) = v % 256 ^ n + 256 ^ n * (v / 256 ^ n % 256) from Nat.mod_mul]
    ring

/-- Writing back what was read: every sequence is the big-endian form of its value. -/
theorem be_beValue (b : Bytes) : be b.length (beValue b) = b := by
  suffices ∀ k, be b.length (beValue b + k * 256 ^ b.length) = b by simpa using this 0
  induction b with
  | nil => intro k; rfl
  | cons x b ih =>
    intro k
    rw [List.length_cons, be, beValue_cons]
    congr 1
    · have hlt := beValue_lt b
      have hpos : 0 < 256 ^ b.length := Nat.pow_pos (by omega)
      rw [show x.toNat * 256 ^ b.length + beValue b + k * 256 ^ (b.length + 1)
          = beValue b + 256 ^ b.length * (x.toNat + k * 256) by ring,
        Nat.add_mul_div_left _ _ hpos, Nat.div_eq_of_lt hlt]
      apply BitVec.eq_of_toNat_eq
      simp only [BitVec.toNat_ofNat]
      have := x.isLt
      omega
    · rw [show x.toNat * 256 ^ b.length + beValue b + k * 256 ^ (b.length + 1)
          = beValue b + (x.toNat + k * 256) * 256 ^ b.length by ring]
      exact ih _

/-! ### Reads -/

theorem memRead_lt (b : Bytes) (off n : Nat) : memRead b off n < 256 ^ n := by
  refine lt_of_lt_of_le (beValue_lt _) (Nat.pow_le_pow_right (by omega) ?_)
  rw [length_slice]
  omega

/-- A read inside the first part of a buffer does not see the rest (R36). -/
theorem memRead_append_left (a b : Bytes) (off n : Nat) (h : off + n ≤ a.length) :
    memRead (a ++ b) off n = memRead a off n := by
  rw [memRead, slice_append_left _ _ _ _ h, memRead]

theorem memRead_append_right (a b : Bytes) (n : Nat) : memRead (a ++ b) a.length n = memRead b 0 n := by
  rw [memRead, slice_append_right, memRead, slice, List.drop_zero, Nat.zero_add, Nat.sub_zero]

/-- Reading a field that was written in front of anything (R33). -/
theorem memRead_be (n v : Nat) (rest : Bytes) : memRead (be n v ++ rest) 0 n = v % 256 ^ n := by
  rw [memRead_append_left _ _ _ _ (by simp), memRead, Nat.zero_add]
  have : slice (be n v) 0 n = be n v := by simpa using slice_zero_length (be n v)
  rw [this, beValue_be]

/-- Writing back a field that was read (R33). -/
theorem be_memRead (b : Bytes) (off n : Nat) (h : off + n ≤ b.length) : be n (memRead b off n) = (b.drop off).take n := by
  have hs : slice b off (off + n) = (b.drop off).take n := by simp [slice]
  have hl : ((b.drop off).take n).length = n := by simp; omega
  rw [memRead, hs]
  simpa [hl] using be_beValue ((b.drop off).take n)

end Sys2Proof
end

