-- ==== Sys2Proof/Laws/State.lean ====
section
/-! SUPPORT. One lemma per field per update of the state, so that no proof unfolds a record update. -/

namespace Sys2Proof.Machine

variable (s : State)

/-! ### respond: how a command ends -/

@[simp] theorem respond_params (o : CmdOutcome) : (respond o s).params = s.params := by cases o <;> rfl
@[simp] theorem respond_bldValid (o : CmdOutcome) : (respond o s).bldValid = s.bldValid := by cases o <;> rfl
@[simp] theorem respond_bldKind (o : CmdOutcome) : (respond o s).bldKind = s.bldKind := by cases o <;> rfl
@[simp] theorem respond_bldSid (o : CmdOutcome) : (respond o s).bldSid = s.bldSid := by cases o <;> rfl
@[simp] theorem respond_bldFlag (o : CmdOutcome) : (respond o s).bldFlag = s.bldFlag := by cases o <;> rfl
@[simp] theorem respond_bldMd (o : CmdOutcome) : (respond o s).bldMd = s.bldMd := by cases o <;> rfl
@[simp] theorem respond_bldData (o : CmdOutcome) : (respond o s).bldData = s.bldData := by cases o <;> rfl
@[simp] theorem respond_bldInitn (o : CmdOutcome) : (respond o s).bldInitn = s.bldInitn := by cases o <;> rfl
@[simp] theorem respond_out (o : CmdOutcome) : (respond o s).out = s.out := by cases o <;> rfl
@[simp] theorem respond_port (o : CmdOutcome) : (respond o s).port = s.port := by cases o <;> rfl
@[simp] theorem respond_races (o : CmdOutcome) : (respond o s).races = s.races := by cases o <;> rfl
@[simp] theorem respond_outcome (o : CmdOutcome) : (respond o s).outcome = some o := by cases o <;> rfl
@[simp] theorem respond_ok_status (v : Option Value) : (respond (.ok v) s).status = .ok := rfl
@[simp] theorem respond_ok_res (v : Option Value) : (respond (.ok v) s).res = v := rfl
@[simp] theorem respond_ok_errrec (v : Option Value) : (respond (.ok v) s).errrec = none := rfl
@[simp] theorem respond_ok_faulted (v : Option Value) : (respond (.ok v) s).faulted = s.faulted := rfl
@[simp] theorem respond_ok_refused (v : Option Value) : (respond (.ok v) s).refused = s.refused := rfl
@[simp] theorem respond_err_status (e : ErrRec) : (respond (.err e) s).status = .err := rfl
@[simp] theorem respond_err_res (e : ErrRec) : (respond (.err e) s).res = none := rfl
@[simp] theorem respond_err_errrec (e : ErrRec) : (respond (.err e) s).errrec = some e := rfl
@[simp] theorem respond_err_faulted (e : ErrRec) : (respond (.err e) s).faulted = s.faulted := rfl
@[simp] theorem respond_err_refused (e : ErrRec) : (respond (.err e) s).refused = s.refused := rfl
@[simp] theorem respond_fault_status (f : FaultName) : (respond (.fault f) s).status = .fault := rfl
@[simp] theorem respond_fault_res (f : FaultName) : (respond (.fault f) s).res = none := rfl
@[simp] theorem respond_fault_errrec (f : FaultName) : (respond (.fault f) s).errrec = none := rfl
@[simp] theorem respond_fault_faulted (f : FaultName) : (respond (.fault f) s).faulted = true := rfl
@[simp] theorem respond_fault_refused (f : FaultName) : (respond (.fault f) s).refused = s.refused := rfl
@[simp] theorem respond_refuse_status (r : RefuseName) : (respond (.refuse r) s).status = .refuse := rfl
@[simp] theorem respond_refuse_res (r : RefuseName) : (respond (.refuse r) s).res = none := rfl
@[simp] theorem respond_refuse_errrec (r : RefuseName) : (respond (.refuse r) s).errrec = none := rfl
@[simp] theorem respond_refuse_faulted (r : RefuseName) : (respond (.refuse r) s).faulted = s.faulted := rfl
@[simp] theorem respond_refuse_refused (r : RefuseName) : (respond (.refuse r) s).refused = true := rfl

/-! ### appendOut -/

@[simp] theorem appendOut_params (b : Bytes) : (appendOut b s).params = s.params := rfl
@[simp] theorem appendOut_bldValid (b : Bytes) : (appendOut b s).bldValid = s.bldValid := rfl
@[simp] theorem appendOut_bldKind (b : Bytes) : (appendOut b s).bldKind = s.bldKind := rfl
@[simp] theorem appendOut_bldSid (b : Bytes) : (appendOut b s).bldSid = s.bldSid := rfl
@[simp] theorem appendOut_bldFlag (b : Bytes) : (appendOut b s).bldFlag = s.bldFlag := rfl
@[simp] theorem appendOut_bldMd (b : Bytes) : (appendOut b s).bldMd = s.bldMd := rfl
@[simp] theorem appendOut_bldData (b : Bytes) : (appendOut b s).bldData = s.bldData := rfl
@[simp] theorem appendOut_bldInitn (b : Bytes) : (appendOut b s).bldInitn = s.bldInitn := rfl
@[simp] theorem appendOut_status (b : Bytes) : (appendOut b s).status = s.status := rfl
@[simp] theorem appendOut_res (b : Bytes) : (appendOut b s).res = s.res := rfl
@[simp] theorem appendOut_errrec (b : Bytes) : (appendOut b s).errrec = s.errrec := rfl
@[simp] theorem appendOut_faulted (b : Bytes) : (appendOut b s).faulted = s.faulted := rfl
@[simp] theorem appendOut_refused (b : Bytes) : (appendOut b s).refused = s.refused := rfl
@[simp] theorem appendOut_out (b : Bytes) : (appendOut b s).out = s.out ++ b := rfl
@[simp] theorem appendOut_outcome (b : Bytes) : (appendOut b s).outcome = s.outcome := rfl
@[simp] theorem appendOut_port (b : Bytes) : (appendOut b s).port = s.port := rfl
@[simp] theorem appendOut_races (b : Bytes) : (appendOut b s).races = s.races := rfl

/-! ### openBuilder -/

@[simp] theorem openBuilder_params (k : PayloadKind) (sid : BitVec 32) (flag : BitVec 16) (initn : BitVec 32) : (openBuilder k sid flag initn s).params = s.params := rfl
@[simp] theorem openBuilder_bldValid (k : PayloadKind) (sid : BitVec 32) (flag : BitVec 16) (initn : BitVec 32) : (openBuilder k sid flag initn s).bldValid = true := rfl
@[simp] theorem openBuilder_bldKind (k : PayloadKind) (sid : BitVec 32) (flag : BitVec 16) (initn : BitVec 32) : (openBuilder k sid flag initn s).bldKind = k := rfl
@[simp] theorem openBuilder_bldSid (k : PayloadKind) (sid : BitVec 32) (flag : BitVec 16) (initn : BitVec 32) : (openBuilder k sid flag initn s).bldSid = sid := rfl
@[simp] theorem openBuilder_bldFlag (k : PayloadKind) (sid : BitVec 32) (flag : BitVec 16) (initn : BitVec 32) : (openBuilder k sid flag initn s).bldFlag = clearMetadata flag := rfl
@[simp] theorem openBuilder_bldMd (k : PayloadKind) (sid : BitVec 32) (flag : BitVec 16) (initn : BitVec 32) : (openBuilder k sid flag initn s).bldMd = none := rfl
@[simp] theorem openBuilder_bldData (k : PayloadKind) (sid : BitVec 32) (flag : BitVec 16) (initn : BitVec 32) : (openBuilder k sid flag initn s).bldData = none := rfl
@[simp] theorem openBuilder_bldInitn (k : PayloadKind) (sid : BitVec 32) (flag : BitVec 16) (initn : BitVec 32) : (openBuilder k sid flag initn s).bldInitn = if countedBuild s.params k then initn else s.bldInitn := rfl
@[simp] theorem openBuilder_status (k : PayloadKind) (sid : BitVec 32) (flag : BitVec 16) (initn : BitVec 32) : (openBuilder k sid flag initn s).status = s.status := rfl
@[simp] theorem openBuilder_res (k : PayloadKind) (sid : BitVec 32) (flag : BitVec 16) (initn : BitVec 32) : (openBuilder k sid flag initn s).res = s.res := rfl
@[simp] theorem openBuilder_errrec (k : PayloadKind) (sid : BitVec 32) (flag : BitVec 16) (initn : BitVec 32) : (openBuilder k sid flag initn s).errrec = s.errrec := rfl
@[simp] theorem openBuilder_faulted (k : PayloadKind) (sid : BitVec 32) (flag : BitVec 16) (initn : BitVec 32) : (openBuilder k sid flag initn s).faulted = s.faulted := rfl
@[simp] theorem openBuilder_refused (k : PayloadKind) (sid : BitVec 32) (flag : BitVec 16) (initn : BitVec 32) : (openBuilder k sid flag initn s).refused = s.refused := rfl
@[simp] theorem openBuilder_out (k : PayloadKind) (sid : BitVec 32) (flag : BitVec 16) (initn : BitVec 32) : (openBuilder k sid flag initn s).out = s.out := rfl
@[simp] theorem openBuilder_outcome (k : PayloadKind) (sid : BitVec 32) (flag : BitVec 16) (initn : BitVec 32) : (openBuilder k sid flag initn s).outcome = s.outcome := rfl
@[simp] theorem openBuilder_port (k : PayloadKind) (sid : BitVec 32) (flag : BitVec 16) (initn : BitVec 32) : (openBuilder k sid flag initn s).port = s.port := rfl
@[simp] theorem openBuilder_races (k : PayloadKind) (sid : BitVec 32) (flag : BitVec 16) (initn : BitVec 32) : (openBuilder k sid flag initn s).races = s.races := rfl

/-! ### putMetadata -/

@[simp] theorem putMetadata_bldMd (md : Option Bytes) : (putMetadata md s).bldMd = md := by cases md <;> rfl
@[simp] theorem putMetadata_some_bldFlag (m : Bytes) : (putMetadata (some m) s).bldFlag = setMetadata s.bldFlag := rfl
@[simp] theorem putMetadata_none_bldFlag : (putMetadata none s).bldFlag = clearMetadata s.bldFlag := rfl
@[simp] theorem putMetadata_params (md : Option Bytes) : (putMetadata md s).params = s.params := by cases md <;> rfl
@[simp] theorem putMetadata_bldValid (md : Option Bytes) : (putMetadata md s).bldValid = s.bldValid := by cases md <;> rfl
@[simp] theorem putMetadata_bldKind (md : Option Bytes) : (putMetadata md s).bldKind = s.bldKind := by cases md <;> rfl
@[simp] theorem putMetadata_bldSid (md : Option Bytes) : (putMetadata md s).bldSid = s.bldSid := by cases md <;> rfl
@[simp] theorem putMetadata_bldData (md : Option Bytes) : (putMetadata md s).bldData = s.bldData := by cases md <;> rfl
@[simp] theorem putMetadata_bldInitn (md : Option Bytes) : (putMetadata md s).bldInitn = s.bldInitn := by cases md <;> rfl
@[simp] theorem putMetadata_status (md : Option Bytes) : (putMetadata md s).status = s.status := by cases md <;> rfl
@[simp] theorem putMetadata_res (md : Option Bytes) : (putMetadata md s).res = s.res := by cases md <;> rfl
@[simp] theorem putMetadata_errrec (md : Option Bytes) : (putMetadata md s).errrec = s.errrec := by cases md <;> rfl
@[simp] theorem putMetadata_faulted (md : Option Bytes) : (putMetadata md s).faulted = s.faulted := by cases md <;> rfl
@[simp] theorem putMetadata_refused (md : Option Bytes) : (putMetadata md s).refused = s.refused := by cases md <;> rfl
@[simp] theorem putMetadata_out (md : Option Bytes) : (putMetadata md s).out = s.out := by cases md <;> rfl
@[simp] theorem putMetadata_outcome (md : Option Bytes) : (putMetadata md s).outcome = s.outcome := by cases md <;> rfl
@[simp] theorem putMetadata_port (md : Option Bytes) : (putMetadata md s).port = s.port := by cases md <;> rfl
@[simp] theorem putMetadata_races (md : Option Bytes) : (putMetadata md s).races = s.races := by cases md <;> rfl

/-! ### resetRegisters -/

@[simp] theorem resetRegisters_params : (resetRegisters s).params = s.params := rfl
@[simp] theorem resetRegisters_bldValid : (resetRegisters s).bldValid = false := rfl
@[simp] theorem resetRegisters_bldKind : (resetRegisters s).bldKind = .requestResponse := rfl
@[simp] theorem resetRegisters_bldSid : (resetRegisters s).bldSid = 0 := rfl
@[simp] theorem resetRegisters_bldFlag : (resetRegisters s).bldFlag = 0 := rfl
@[simp] theorem resetRegisters_bldMd : (resetRegisters s).bldMd = none := rfl
@[simp] theorem resetRegisters_bldData : (resetRegisters s).bldData = none := rfl
@[simp] theorem resetRegisters_bldInitn : (resetRegisters s).bldInitn = 0 := rfl
@[simp] theorem resetRegisters_status : (resetRegisters s).status = .idle := rfl
@[simp] theorem resetRegisters_res : (resetRegisters s).res = none := rfl
@[simp] theorem resetRegisters_errrec : (resetRegisters s).errrec = none := rfl
@[simp] theorem resetRegisters_faulted : (resetRegisters s).faulted = false := rfl
@[simp] theorem resetRegisters_refused : (resetRegisters s).refused = false := rfl
@[simp] theorem resetRegisters_out : (resetRegisters s).out = s.out := rfl
@[simp] theorem resetRegisters_outcome : (resetRegisters s).outcome = none := rfl
@[simp] theorem resetRegisters_port : (resetRegisters s).port = s.port := rfl
@[simp] theorem resetRegisters_races : (resetRegisters s).races = s.races := rfl

/-! ### acceptRequest -/

@[simp] theorem acceptRequest_params (r : Request) (rest : List Event) : (acceptRequest r rest s).params = s.params := rfl
@[simp] theorem acceptRequest_bldValid (r : Request) (rest : List Event) : (acceptRequest r rest s).bldValid = s.bldValid := rfl
@[simp] theorem acceptRequest_bldKind (r : Request) (rest : List Event) : (acceptRequest r rest s).bldKind = s.bldKind := rfl
@[simp] theorem acceptRequest_bldSid (r : Request) (rest : List Event) : (acceptRequest r rest s).bldSid = s.bldSid := rfl
@[simp] theorem acceptRequest_bldFlag (r : Request) (rest : List Event) : (acceptRequest r rest s).bldFlag = s.bldFlag := rfl
@[simp] theorem acceptRequest_bldMd (r : Request) (rest : List Event) : (acceptRequest r rest s).bldMd = s.bldMd := rfl
@[simp] theorem acceptRequest_bldData (r : Request) (rest : List Event) : (acceptRequest r rest s).bldData = s.bldData := rfl
@[simp] theorem acceptRequest_bldInitn (r : Request) (rest : List Event) : (acceptRequest r rest s).bldInitn = s.bldInitn := rfl
@[simp] theorem acceptRequest_status (r : Request) (rest : List Event) : (acceptRequest r rest s).status = s.status := rfl
@[simp] theorem acceptRequest_res (r : Request) (rest : List Event) : (acceptRequest r rest s).res = s.res := rfl
@[simp] theorem acceptRequest_errrec (r : Request) (rest : List Event) : (acceptRequest r rest s).errrec = s.errrec := rfl
@[simp] theorem acceptRequest_faulted (r : Request) (rest : List Event) : (acceptRequest r rest s).faulted = s.faulted := rfl
@[simp] theorem acceptRequest_refused (r : Request) (rest : List Event) : (acceptRequest r rest s).refused = s.refused := rfl
@[simp] theorem acceptRequest_out (r : Request) (rest : List Event) : (acceptRequest r rest s).out = r.out.getD s.out := rfl
@[simp] theorem acceptRequest_outcome (r : Request) (rest : List Event) : (acceptRequest r rest s).outcome = s.outcome := rfl
@[simp] theorem acceptRequest_port (r : Request) (rest : List Event) : (acceptRequest r rest s).port = rest := rfl
@[simp] theorem acceptRequest_races (r : Request) (rest : List Event) : (acceptRequest r rest s).races = if r.racedIn || r.racedOut then s.races + 1 else s.races := rfl

/-! ### withFetchWord -/

@[simp] theorem withFetchWord_params (nbits w : Nat) : (s.withFetchWord nbits w).params = s.params := rfl
@[simp] theorem withFetchWord_bldValid (nbits w : Nat) : (s.withFetchWord nbits w).bldValid = s.bldValid := rfl
@[simp] theorem withFetchWord_bldKind (nbits w : Nat) : (s.withFetchWord nbits w).bldKind = s.bldKind := rfl
@[simp] theorem withFetchWord_bldSid (nbits w : Nat) : (s.withFetchWord nbits w).bldSid = s.bldSid := rfl
@[simp] theorem withFetchWord_bldFlag (nbits w : Nat) : (s.withFetchWord nbits w).bldFlag = s.bldFlag := rfl
@[simp] theorem withFetchWord_bldMd (nbits w : Nat) : (s.withFetchWord nbits w).bldMd = s.bldMd := rfl
@[simp] theorem withFetchWord_bldData (nbits w : Nat) : (s.withFetchWord nbits w).bldData = s.bldData := rfl
@[simp] theorem withFetchWord_bldInitn (nbits w : Nat) : (s.withFetchWord nbits w).bldInitn = s.bldInitn := rfl
@[simp] theorem withFetchWord_status (nbits w : Nat) : (s.withFetchWord nbits w).status = s.status := rfl
@[simp] theorem withFetchWord_res (nbits w : Nat) : (s.withFetchWord nbits w).res = s.res := rfl
@[simp] theorem withFetchWord_errrec (nbits w : Nat) : (s.withFetchWord nbits w).errrec = s.errrec := rfl
@[simp] theorem withFetchWord_faulted (nbits w : Nat) : (s.withFetchWord nbits w).faulted = s.faulted := rfl
@[simp] theorem withFetchWord_refused (nbits w : Nat) : (s.withFetchWord nbits w).refused = s.refused := rfl
@[simp] theorem withFetchWord_out (nbits w : Nat) : (s.withFetchWord nbits w).out = s.out := rfl
@[simp] theorem withFetchWord_outcome (nbits w : Nat) : (s.withFetchWord nbits w).outcome = s.outcome := rfl
@[simp] theorem withFetchWord_port (nbits w : Nat) : (s.withFetchWord nbits w).port = .command (requestOfTable nbits w) :: s.port := rfl
@[simp] theorem withFetchWord_races (nbits w : Nat) : (s.withFetchWord nbits w).races = s.races := rfl

end Sys2Proof.Machine
end

