-- ==== Sys2Proof/Laws/Wire.lean ====
section
/-! SUPPORT. The type-and-flags word (R45), the header (R44) and the type codes (R47): what packing, splitting and looking up
undo of each other. -/

namespace Sys2Proof

/-! ### The word -/

theorem toNat_packWord (t : BitVec 6) (f : BitVec 16) :
    (packWord t f).toNat = t.toNat * 1024 + f.toNat % 1024 := by
  have ht := t.isLt
  have hmask : f.toNat &&& 1023 = f.toNat % 1024 := Nat.and_two_pow_sub_one_eq_mod f.toNat 10
  have hlt : f.toNat % 1024 < 2 ^ 10 := Nat.mod_lt _ (by omega)
  have hor := Nat.shiftLeft_add_eq_or_of_lt hlt t.toNat
  simp only [packWord, BitVec.toNat_or, BitVec.toNat_shiftLeft, BitVec.toNat_setWidth, BitVec.toNat_and,
    BitVec.toNat_ofNat]
  rw [show (1023 : Nat) % 2 ^ 16 = 1023 from rfl, hmask, Nat.mod_eq_of_lt (by omega : t.toNat < 2 ^ 16),
    Nat.mod_eq_of_lt (by rw [Nat.shiftLeft_eq]; omega), ← hor, Nat.shiftLeft_eq]

theorem toNat_wordType (w : BitVec 16) : (wordType w).toNat = w.toNat / 1024 := by
  have := w.isLt
  simp only [wordType, BitVec.toNat_setWidth, BitVec.toNat_ushiftRight, Nat.shiftRight_eq_div_pow]
  omega

theorem toNat_wordFlag (w : BitVec 16) : (wordFlag w).toNat = w.toNat % 1024 := by
  have hmask : w.toNat &&& 1023 = w.toNat % 1024 := Nat.and_two_pow_sub_one_eq_mod w.toNat 10
  simp only [wordFlag, BitVec.toNat_setWidth, BitVec.toNat_and, BitVec.toNat_ofNat]
  rw [show (1023 : Nat) % 2 ^ 16 = 1023 from rfl, hmask]
  omega

@[simp] theorem wordType_packWord (t : BitVec 6) (f : BitVec 16) : wordType (packWord t f) = t := by
  apply BitVec.eq_of_toNat_eq
  rw [toNat_wordType, toNat_packWord]
  omega

@[simp] theorem wordFlag_packWord (t : BitVec 6) (f : BitVec 16) : wordFlag (packWord t f) = f.setWidth 10 := by
  apply BitVec.eq_of_toNat_eq
  rw [toNat_wordFlag, toNat_packWord, BitVec.toNat_setWidth]
  omega

/-- Every word is its two fields packed again: each bit lands in exactly one field (R61). -/
theorem packWord_split (w : BitVec 16) : packWord (wordType w) ((wordFlag w).setWidth 16) = w := by
  apply BitVec.eq_of_toNat_eq
  rw [toNat_packWord, toNat_wordType, BitVec.toNat_setWidth, toNat_wordFlag]
  omega

/-- Only the low 10 bits of a record flag reach the word (R45). -/
theorem packWord_setWidth (t : BitVec 6) (f : BitVec 16) :
    packWord t ((f.setWidth 10).setWidth 16) = packWord t f := by
  apply BitVec.eq_of_toNat_eq
  rw [toNat_packWord, toNat_packWord, BitVec.toNat_setWidth, BitVec.toNat_setWidth]
  omega

/-- Widening a wire flag keeps bit 8 (R50). -/
@[simp] theorem getLsbD_setWidth_flag (f : BitVec 10) : (f.setWidth 16).getLsbD 8 = f.getLsbD 8 := by
  simp

/-! ### The header -/

@[simp] theorem length_writeHeader (sid : BitVec 32) (t : BitVec 6) (f : BitVec 16) :
    (writeHeader sid t f).length = 6 := by simp [writeHeader]

/-- Reading the header that was written in front of anything (R61). -/
@[simp] theorem readHeader_writeHeader (sid : BitVec 32) (t : BitVec 6) (f : BitVec 16) (rest : Bytes) :
    readHeader (writeHeader sid t f ++ rest) = ⟨sid, t, f.setWidth 10⟩ := by
  have h0 : memRead (writeHeader sid t f ++ rest) 0 4 = sid.toNat := by
    rw [writeHeader, List.append_assoc, memRead_be]
    exact Nat.mod_eq_of_lt sid.isLt
  have h4 : memRead (writeHeader sid t f ++ rest) 4 2 = (packWord t f).toNat := by
    rw [writeHeader, List.append_assoc]
    have := memRead_append_right (be 4 sid.toNat) (be 2 (packWord t f).toNat ++ rest) 2
    rw [length_be] at this
    rw [this, memRead_be]
    exact Nat.mod_eq_of_lt (packWord t f).isLt
  simp [readHeader, h0, h4]

@[simp] theorem drop_writeHeader (sid : BitVec 32) (t : BitVec 6) (f : BitVec 16) (rest : Bytes) :
    (writeHeader sid t f ++ rest).drop 6 = rest := by
  have := List.drop_left (l₁ := writeHeader sid t f) (l₂ := rest)
  rwa [length_writeHeader] at this

/-- Writing back the header that was read (R61). -/
theorem writeHeader_readHeader (b : Bytes) (h : 6 ≤ b.length) :
    writeHeader (readHeader b).streamId (readHeader b).type ((readHeader b).flag.setWidth 16) = b.take 6 := by
  have h0 : (BitVec.ofNat 32 (memRead b 0 4)).toNat = memRead b 0 4 := by
    rw [BitVec.toNat_ofNat]
    exact Nat.mod_eq_of_lt (memRead_lt b 0 4)
  have h4 : (BitVec.ofNat 16 (memRead b 4 2)).toNat = memRead b 4 2 := by
    rw [BitVec.toNat_ofNat]
    exact Nat.mod_eq_of_lt (memRead_lt b 4 2)
  simp only [writeHeader, readHeader, packWord_split, h0, h4]
  rw [be_memRead b 0 4 (by omega), be_memRead b 4 2 (by omega), List.drop_zero]
  exact (List.take_add (l := b) (i := 4) (j := 2)).symm

/-! ### The type codes -/

@[simp] theorem kindOf_code (k : Kind) : kindOf k.code = some k := by cases k <;> rfl

theorem code_kindOf (t : BitVec 6) (k : Kind) (h : kindOf t = some k) : k.code = t := by
  revert h
  cases k <;> revert t <;> decide

end Sys2Proof
end

