-- ==== Sys2Proof/Laws/Ops.lean ====
section
/-! SUPPORT. What each shared operation can do, said once: later proofs cite these and do not unfold the operation. -/

namespace Sys2Proof.Machine

/-! ### Ending a command -/

/-- What `respond` can do, whole: only STATUS, RES, ERRREC, the sticky marks and the returned outcome change. -/
theorem respond_eq (o : CmdOutcome) (s : State) :
    respond o s =
      { s with
        status := (respond o s).status, res := (respond o s).res, errrec := (respond o s).errrec
        faulted := (respond o s).faulted, refused := (respond o s).refused, outcome := some o } := by
  cases o <;> rfl

/-- A later outcome overwrites an earlier one, but for the sticky marks (R26 to R28). -/
theorem respond_faulted_of_faulted (o : CmdOutcome) (s : State) (h : s.faulted = true) :
    (respond o s).faulted = true := by cases o <;> simp [h]

theorem respond_refused_of_refused (o : CmdOutcome) (s : State) (h : s.refused = true) :
    (respond o s).refused = true := by cases o <;> simp [h]

/-! ### Guards -/

theorem withTypedBody_cases (b : Body) (s : State) (k : State → State) :
    b.typed s.params = true ∧ withTypedBody b s k = k s ∨
    b.typed s.params = false ∧ withTypedBody b s k = respond (.refuse .badOperand) s := by
  cases h : b.typed s.params <;> simp [withTypedBody, h]

theorem withTypedBody_of_typed (b : Body) (s : State) (k : State → State) (h : b.typed s.params = true) :
    withTypedBody b s k = k s := by simp [withTypedBody, h]

theorem withBuilder_cases (s : State) (k : State → State) :
    s.bldValid = true ∧ withBuilder s k = k s ∨
    s.bldValid = false ∧ withBuilder s k = respond (.refuse .noBuilder) s := by
  cases h : s.bldValid <;> simp [withBuilder, h]

theorem tooLarge_eq_false_iff (p : Params) (n : Nat) :
    tooLarge p n = false ↔ ∀ m, p.maxFrame = some m → n ≤ m := by
  cases h : p.maxFrame <;> simp [tooLarge, h]

/-! ### Encoding commands -/

/-- What `emitToOut` can do: refuse, fault, or append and answer OK (R93). -/
theorem emitToOut_cases (e : Emission) (s : State) :
    tooLarge s.params e.size = true ∧ emitToOut e s = respond (.refuse .bufferTooLarge) s ∨
    tooLarge s.params e.size = false ∧ e.oversize = true ∧
      emitToOut e s = respond (.fault .encOversizeMetadata) s ∨
    tooLarge s.params e.size = false ∧ e.oversize = false ∧
      emitToOut e s = respond (.ok none) (appendOut e.bytes s) := by
  cases h1 : tooLarge s.params e.size <;> cases h2 : e.oversize <;> simp [emitToOut, emissionStop, h1, h2]

/-- What `emitToRes` can do: refuse, fault, or answer OK with the bytes (R80, R93). -/
theorem emitToRes_cases (e : Emission) (s : State) :
    tooLarge s.params e.size = true ∧ emitToRes e s = respond (.refuse .bufferTooLarge) s ∨
    tooLarge s.params e.size = false ∧ e.oversize = true ∧
      emitToRes e s = respond (.fault .encOversizeMetadata) s ∨
    tooLarge s.params e.size = false ∧ e.oversize = false ∧
      emitToRes e s = respond (.ok (some (.bytes e.bytes))) s := by
  cases h1 : tooLarge s.params e.size <;> cases h2 : e.oversize <;> simp [emitToRes, emissionStop, h1, h2]

/-! ### Lengths (R64, R75, R81) -/

@[simp] theorem length_encodePayload (md data : Option Bytes) :
    (encodePayload md data).length = payloadLength md data := by
  cases md <;> cases data <;> simp [encodePayload, payloadLength] <;> omega

@[simp] theorem length_countBytes (n : Option (BitVec 32)) : (countBytes n).length = countLength n := by
  cases n <;> simp [countBytes, countLength]

@[simp] theorem length_racedBytes (n : Nat) (w : RacedBuffer) (i : Nat) (b : Bytes) :
    (racedBytes n w i b).length = b.length := by
  induction b generalizing i with
  | nil => rfl
  | cons x b ih => simp [racedBytes, ih]

/-! ### The flag bits the builder keeps (R83, R84, R86) -/

@[simp] theorem clearMetadata_bit8 (f : BitVec 16) : (clearMetadata f).getLsbD 8 = false := by
  simp [clearMetadata]

@[simp] theorem setMetadata_bit8 (f : BitVec 16) : (setMetadata f).getLsbD 8 = true := by
  simp [setMetadata]

/-! ### Bodies -/

@[simp] theorem payload?_toKind (k : PayloadKind) : k.toKind.payload? = some k := by cases k <;> rfl

@[simp] theorem kind_payloadBody (k : PayloadKind) (n : Option (BitVec 32)) (md data : Option Bytes) :
    (k.body n md data).kind = k.toKind := by cases k <;> rfl

@[simp] theorem parts?_payloadBody (k : PayloadKind) (n : Option (BitVec 32)) (md data : Option Bytes) :
    (k.body n md data).parts? = some (md, data) := by cases k <;> rfl

/-- A body has parts exactly when its kind is a payload kind (R16). -/
theorem isSome_parts?_iff (b : Body) : b.parts?.isSome = b.kind.payload?.isSome := by cases b <;> rfl

/-! ### One step -/

theorem step_idle (s : State) (h : s.port = []) : step s = .next s := by simp [step, h]

theorem step_reset (s : State) (rest : List Event) (h : s.port = .reset :: rest) :
    step s = .next (resetRegisters { s with port := rest }) := by simp [step, h]

theorem step_command (s : State) (r : Request) (rest : List Event) (h : s.port = .command r :: rest) :
    step s = settleOut r s.races (runCommand r rest s) := by simp [step, h]

/-- Without a race on OUT a step is exactly what the command did. -/
theorem settleOut_of_not_raced (r : Request) (n : Nat) (o : Host.Outcome State Fault Refusal)
    (h : r.racedOut = false) : settleOut r n o = o := by simp [settleOut, h]

/-- Without a race on IN a command reads the operand fields as they were issued. -/
theorem seenOperands_of_not_raced (r : Request) (s : State) (h : r.racedIn = false) :
    seenOperands r s = r.operands := by simp [seenOperands, h]

end Sys2Proof.Machine
end

