-- ==== Sys2Proof/Laws/WrittenOut.lean ====
section
/-! SUPPORT. The machine's bytes are the bytes written out in Safety.lean's `Wire` (R33,
    R44 to R49): one lemma per operation
that writes or reads bytes, and the checks of R97 and R96 in the terms of Safety.lean. -/

namespace Sys2Proof.Machine

/-! ### Fields -/

theorem be_four_eq (v : BitVec 32) : be 4 v.toNat = Wire.u32 v := by
  simp only [be, Wire.u32, List.cons.injEq, and_true]
  refine ⟨?_, ?_, ?_, ?_⟩ <;> apply BitVec.eq_of_toNat_eq <;>
    simp [BitVec.extractLsb'_toNat, Nat.shiftRight_eq_div_pow]

theorem be_three_eq (n : Nat) : be 3 n = Wire.u24 n := by simp [be, Wire.u24]

theorem toNat_append_eq {a b : Nat} (x : BitVec a) (y : BitVec b) : (x ++ y).toNat = x.toNat * 2 ^ b + y.toNat := by
  rw [BitVec.toNat_append, ← Nat.shiftLeft_add_eq_or_of_lt y.isLt, Nat.shiftLeft_eq]

/-- A 4-byte field at the start of a buffer. -/
theorem memRead_four_cons (a b c d : Byte) (rest : Bytes) :
    BitVec.ofNat 32 (memRead (a :: b :: c :: d :: rest) 0 4) = a ++ b ++ c ++ d := by
  apply BitVec.eq_of_toNat_eq
  have := a.isLt; have := b.isLt; have := c.isLt; have := d.isLt
  rw [toNat_append_eq, toNat_append_eq, toNat_append_eq]
  simp [memRead, slice, beValue]
  omega

/-- A 3-byte length at the start of a buffer. -/
theorem memRead_three_cons (a b c : Byte) (rest : Bytes) :
    memRead (a :: b :: c :: rest) 0 3 = a.toNat * 65536 + b.toNat * 256 + c.toNat := by
  simp [memRead, slice, beValue]
  omega

/-- Writing a 4-byte field back. -/
theorem wireU32_append (a b c d : Byte) : Wire.u32 (a ++ b ++ c ++ d) = [a, b, c, d] := by
  rw [← be_four_eq, ← memRead_four_cons a b c d [], BitVec.toNat_ofNat, Nat.mod_eq_of_lt (show memRead [a, b, c,
      d] 0 4 < 2 ^ 32 from memRead_lt _ 0 4)]
  exact be_beValue [a, b, c, d]

/-- A buffer that is not shorter than a 4-byte field has one. -/
theorem exists_four_of_not_lt {inp : Bytes} (h : ¬ inp.length < 4) : ∃ a b c d rest,
    inp = a :: b :: c :: d :: rest := by
  match inp, h with
  | a :: b :: c :: d :: rest, _ => exact ⟨_, _, _, _, _, rfl⟩
  | [], hl => simp at hl
  | [_], hl => simp at hl
  | [_, _], hl => simp at hl
  | [_, _, _], hl => simp at hl

/-- Both ways to cut a record flag to its ten wire bits. -/
theorem setWidth_mask_flag (flag : BitVec 16) : (flag &&& 0x03FF#16).setWidth 10 = flag.setWidth 10 := by
  have h2 : wordFlag flag = (flag &&& 0x03FF#16).setWidth 10 := rfl
  rw [← h2]
  apply BitVec.eq_of_toNat_eq
  rw [toNat_wordFlag, BitVec.toNat_setWidth]

/-! ### The header -/

theorem writeHeader_eq (sid : BitVec 32) (t : BitVec 6) (f : BitVec 16) : writeHeader sid t f = Wire.header sid t f := by
  rw [writeHeader, be_four_eq, Wire.header]
  congr 1
  have ht := t.isLt
  have hf := f.isLt
  simp only [be, toNat_packWord, List.cons.injEq, and_true]
  constructor <;> apply BitVec.eq_of_toNat_eq
  · rw [toNat_append_eq]
    simp [BitVec.extractLsb'_toNat, Nat.shiftRight_eq_div_pow]
    omega
  · simp [BitVec.extractLsb'_toNat]
    omega

theorem readHeader_cons (b0 b1 b2 b3 b4 b5 : Byte) (rest : Bytes) :
    readHeader (b0 :: b1 :: b2 :: b3 :: b4 :: b5 :: rest) =
      ⟨b0 ++ b1 ++ b2 ++ b3, b4.extractLsb' 2 6, (b4.extractLsb' 0 2 ++ b5 : BitVec 10)⟩ := by
  have h4 : memRead (b0 :: b1 :: b2 :: b3 :: b4 :: b5 :: rest) 4 2 = b4.toNat * 256 + b5.toNat := by
    simp [memRead, slice, beValue]
  have := b4.isLt; have := b5.isLt
  simp only [readHeader, memRead_four_cons, h4, Header.mk.injEq, true_and]
  constructor <;> apply BitVec.eq_of_toNat_eq
  · rw [toNat_wordType]
    simp [BitVec.extractLsb'_toNat, Nat.shiftRight_eq_div_pow]
    omega
  · rw [toNat_wordFlag, toNat_append_eq]
    simp [BitVec.extractLsb'_toNat]
    omega

theorem length_wireHeader (sid t f) : (Wire.header sid t f).length = 6 := by simp [Wire.header, Wire.u32]

/-! ### Payloads, bodies, frames -/

theorem encodePayload_eq (md data : Option Bytes) : encodePayload md data = Wire.payload md data := by
  cases md <;> cases data <;> simp [encodePayload, Wire.payload, be_three_eq]

theorem encodeBody_eq (b : Body) : encodeBody b = Wire.body b := by
  cases b <;> simp [encodeBody, Wire.body, encodePayload_eq, be_four_eq]
  all_goals rename_i n _ _; cases n <;> simp [countBytes, Wire.count, be_four_eq]

theorem encodeFrame_eq (f : Frame) : encodeFrame f = Wire.frame f := by
  simp [encodeFrame, Wire.frame, encodeBody_eq, writeHeader_eq]

theorem length_wireBody (b : Body) : (Wire.body b).length = bodyLength b := by
  rw [← encodeBody_eq]
  cases b <;> simp [encodeBody, bodyLength, Config.extLength]

theorem length_wireFrame (f : Frame) : (Wire.frame f).length = frameLength f := by
  simp [Wire.frame, frameLength, length_wireBody, Wire.header, Wire.u32]
  omega

theorem length_wirePayload (md data : Option Bytes) : (Wire.payload md data).length = payloadLength md data := by
  rw [← encodePayload_eq, length_encodePayload]

theorem restData_eq (b : Bytes) : restData b = Wire.data b := by
  cases b <;> simp [restData, Wire.data]

theorem wireData_getD {data : Option Bytes} (h : data ≠ some []) : Wire.data (data.getD []) = data := by
  cases data with
  | none => rfl
  | some d => simp [Wire.data]; intro hd; simp [hd] at h

/-! ### The checks -/

theorem fits_iff_not_tooLarge (p : Params) (n : Nat) : Fits p n ↔ tooLarge p n = false := by
  rw [tooLarge_eq_false_iff]; rfl

theorem not_fits_iff_tooLarge (p : Params) (n : Nat) : ¬ Fits p n ↔ tooLarge p n = true := by
  rw [fits_iff_not_tooLarge]; simp

theorem metadataFits_iff (md : Option Bytes) : MetadataFits md ↔ oversizeMetadata md = false := by
  cases md <;> simp [MetadataFits, oversizeMetadata]

theorem Fits_of_le {p : Params} {n m : Nat} (h : Fits p n) (hm : m ≤ n) : Fits p m :=
  fun k hk => le_trans hm (h k hk)

/-! ### Encoding commands -/

theorem emitToOut_of_fits {e : Emission} {s : State} (h1 : tooLarge s.params e.size = false) (h2 : e.oversize = false) :
    emitToOut e s = s.endsAppending e.bytes := by
  simp [emitToOut, emissionStop, h1, h2, respond, appendOut]

theorem emitToOut_of_oversize {e : Emission} {s : State} (h1 : tooLarge s.params e.size = false) (h2 : e.oversize = true) :
    emitToOut e s = s.endsFault .encOversizeMetadata := by
  simp [emitToOut, emissionStop, h1, h2, respond]

theorem emitToRes_of_fits {e : Emission} {s : State} (h1 : tooLarge s.params e.size = false) (h2 : e.oversize = false) :
    emitToRes e s = s.endsOk (some (.bytes e.bytes)) := by
  simp [emitToRes, emissionStop, h1, h2, respond]

end Sys2Proof.Machine
end

