-- ==== Sys2Proof/Laws/Decoding.lean ====
section
/-! SUPPORT. What the payload and body decoders make of a run of bytes, and what a run they accept must have been. -/

namespace Sys2Proof.Machine

/-! ### Payloads (R62) -/

theorem decodePayload_of_clear {flag : BitVec 16} (h : flag.getLsbD 8 = false) (inp : Bytes) (hdr) :
    decodePayload flag inp hdr = .ok (none, Wire.data inp) := by
  have h' : hasMetadataBit flag = false := h
  simp [decodePayload, h', restData_eq]

theorem decodePayload_of_short {flag : BitVec 16} (h : flag.getLsbD 8 = true) (inp : Bytes) (hdr) (hl : inp.length < 3) :
    decodePayload flag inp hdr = .error ⟨.truncated, hdr⟩ := by
  have h' : hasMetadataBit flag = true := h
  simp [decodePayload, h', hl]

theorem decodePayload_of_overrun {flag : BitVec 16} (h : flag.getLsbD 8 = true) (a b c : Byte) (rest : Bytes) (hdr)
    (hl : rest.length < a.toNat * 65536 + b.toNat * 256 + c.toNat) :
    decodePayload flag (a :: b :: c :: rest) hdr = .error ⟨.lengthOverrun, hdr⟩ := by
  have h' : hasMetadataBit flag = true := h
  simp [decodePayload, h', memRead_three_cons, hl]

theorem decodePayload_of_fits {flag : BitVec 16} (h : flag.getLsbD 8 = true) (a b c : Byte) (m d : Bytes) (hdr)
    (hl : m.length = a.toNat * 65536 + b.toNat * 256 + c.toNat) :
    decodePayload flag (a :: b :: c :: (m ++ d)) hdr = .ok (some m, Wire.data d) := by
  have h1 : slice (a :: b :: c :: (m ++ d)) 3 (3 + m.length) = m := by simp [slice]
  have h2 : slice (a :: b :: c :: (m ++ d)) (3 + m.length) (a :: b :: c :: (m ++ d)).length = d := by
    rw [slice_to_end, Nat.add_comm]; simp
  have h' : hasMetadataBit flag = true := h
  simp only [decodePayload, h', memRead_three_cons, ← hl, h1, h2, restData_eq]
  simp

/-- The layout with metadata, written out. -/
theorem decodePayload_u24 {flag : BitVec 16} (h : flag.getLsbD 8 = true) (m d : Bytes) (hdr) (hm : m.length ≤ 0xFFFFFF) :
    decodePayload flag (Wire.u24 m.length ++ m ++ d) hdr = .ok (some m, Wire.data d) := by
  have := decodePayload_of_fits h (BitVec.ofNat 8 (m.length / 65536)) (BitVec.ofNat 8 (m.length / 256)) (BitVec.ofNat 8 m.length)
    m d hdr (by simp; omega)
  simpa [Wire.u24] using this

/-- Decoding what PL_ENC writes (R66). -/
theorem decodePayload_wirePayload {flag : BitVec 16} (md data : Option Bytes) (hdr) (h : flag.getLsbD 8 = md.isSome)
    (hm : MetadataFits md) : decodePayload flag (Wire.payload md data) hdr = .ok (md, Wire.data (data.getD [])) := by
  cases md with
  | none => cases data <;> simp [Wire.payload, decodePayload_of_clear h]
  | some m =>
    have hm := hm m rfl
    have h : flag.getLsbD 8 = true := h
    cases data with
    | none => simpa [Wire.payload] using decodePayload_u24 h m [] hdr hm
    | some d => simpa [Wire.payload] using decodePayload_u24 h m d hdr hm

/-- An accepted run is the encoding of its parts, and bytes behind it become data (R105). -/
theorem decodePayload_accepts {flag inp hdr md d} (h : decodePayload flag inp hdr = .ok (md, d)) :
    Wire.payload md d = inp ∧ MetadataFits md ∧ (∀ extra, decodePayload flag (inp ++ extra) hdr = .ok (md,
        Wire.data (d.getD [] ++ extra))) := by
  unfold decodePayload at h
  cases hb : hasMetadataBit flag with
  | false =>
    simp only [hb] at h
    obtain ⟨rfl, rfl⟩ : none = md ∧ restData inp = d := by simpa using h
    refine ⟨?_, fun m hm => (nomatch hm), fun extra => ?_⟩
    · cases inp <;> rfl
    · rw [decodePayload_of_clear hb]; cases inp <;> rfl
  | true =>
    rw [hb] at h
    simp only [if_true] at h
    split at h
    · cases h
    · rename_i hl
      split at h
      · cases h
      · rename_i hlen
        match inp, hl with
        | a :: b :: c :: rest, _ =>
          rw [memRead_three_cons] at h hlen
          have hlen : ¬ rest.length < a.toNat * 65536 + b.toNat * 256 + c.toNat := by simpa using hlen
          have hall : decodePayload flag (a :: b :: c :: rest) hdr = .ok (md, d) := by
            unfold decodePayload
            rw [hb, if_pos rfl, if_neg (by simp)]
            dsimp only
            rw [memRead_three_cons, if_neg (by simpa using hlen)]
            exact h
          generalize hL : a.toNat * 65536 + b.toNat * 256 + c.toNat = L at *
          have hm : (rest.take L).length = a.toNat * 65536 + b.toNat * 256 + c.toNat := by simp; omega
          have hx : ∀ d, decodePayload flag (a :: b :: c :: (rest.take L ++ d)) hdr = .ok (some (rest.take L),
              Wire.data d) := fun d => decodePayload_of_fits hb a b c (rest.take L) d hdr hm
          have h0 := hx (rest.drop L)
          rw [List.take_append_drop, hall] at h0
          obtain ⟨rfl, rfl⟩ : md = some (rest.take L) ∧ d = Wire.data (rest.drop L) := by simpa using h0
          have hu : Wire.u24 (rest.take L).length = [a, b, c] := by
            rw [hm, ← be_three_eq, ← memRead_three_cons a b c []]
            exact be_beValue [a, b, c]
          have hdt : ∀ x, (Wire.data x).getD [] = x := by intro x; cases x <;> rfl
          refine ⟨?_, ?_, fun extra => ?_⟩
          · have : Wire.payload (some (rest.take L)) (Wire.data (rest.drop L)) =
              Wire.u24 (rest.take L).length ++ rest.take L ++ (Wire.data (rest.drop L)).getD [] := by
              cases Wire.data (rest.drop L) <;> simp [Wire.payload]
            rw [this, hdt, hu]
            simp
          · intro m hmm
            cases hmm
            have := a.isLt; have := b.isLt; have := c.isLt
            omega
          · rw [hdt, ← hx]
            congr 1
            simp only [List.cons_append, List.cons.injEq, true_and]
            rw [← List.append_assoc, List.take_append_drop]
        | [], hl => simp at hl
        | [_], hl => simp at hl
        | [_, _], hl => simp at hl

/-! ### Bodies (R67 to R73) -/

theorem decodeBody_of_plain {p k flag inp hdr} (hk : PayloadKind.hasCount k = false) :
    decodeBody p k.toKind flag inp hdr = decodePlainBody k flag inp hdr := by
  cases k <;> first | rfl | cases hk

theorem decodeBody_of_counted {p k flag inp hdr} (hk : PayloadKind.hasCount k = true) :
    decodeBody p k.toKind flag inp hdr = decodeCountedBody p k flag inp hdr := by
  cases k <;> first | rfl | cases hk

theorem decodePlainBody_accepts {k : PayloadKind} {flag inp hdr b} (h : decodePlainBody k flag inp hdr = .ok b) :
    ∃ md d, decodePayload flag inp hdr = .ok (md, d) ∧ b = k.body none md d := by
  unfold decodePlainBody at h
  rcases hd : decodePayload flag inp hdr with e | ⟨md, d⟩
  · rw [hd] at h; cases h
  · rw [hd] at h; exact ⟨md, d, rfl, (Except.ok.inj h).symm⟩

theorem decodeCountedBody_accepts {p : Params} {k : PayloadKind} {flag inp hdr b}
    (h : decodeCountedBody p k flag inp hdr = .ok b) :
    (p.reqnPrefix = false ∧ ∃ md d, decodePayload flag inp hdr = .ok (md, d) ∧ b = k.body none md d) ∨
    (p.reqnPrefix = true ∧ ∃ n rest md d, inp = Wire.u32 n ++ rest ∧ decodePayload flag rest hdr = .ok (md, d) ∧
        b = k.body (some n) md d) := by
  unfold decodeCountedBody at h
  cases hp : p.reqnPrefix with
  | false => rw [hp] at h; exact .inl ⟨rfl, decodePlainBody_accepts h⟩
  | true =>
    right
    rw [hp] at h
    simp only [if_true] at h
    split at h
    · cases h
    · rename_i hl
      obtain ⟨a, b', c, d', rest, rfl⟩ := exists_four_of_not_lt hl
      have hs : slice (a :: b' :: c :: d' :: rest) 4 (a :: b' :: c :: d' :: rest).length = rest :=
          by rw [slice_to_end]; rfl
      rw [hs, memRead_four_cons] at h
      rcases hd : decodePayload flag rest hdr with e | ⟨md, d⟩
      · rw [hd] at h; cases h
      · rw [hd] at h
        exact ⟨rfl, _, rest, md, d, by rw [wireU32_append]; rfl, hd, (Except.ok.inj h).symm⟩

/-- Decoding what BODY_ENC writes (R77). -/
theorem decodeBody_wireBody {p : Params} {b : Body} {flag : BitVec 16} (hdr)
    (ht : b.typed p = true) (hx : b.kind.isExternal = false) (hr : b.RoundTrips flag) :
    decodeBody p b.kind flag (Wire.body b) hdr = .ok b := by
  have plain : ∀ (k : PayloadKind) md data, (flag.getLsbD 8 = md.isSome ∧ data ≠ some [] ∧ MetadataFits md) →
      decodePlainBody k flag (Wire.payload md data) hdr = .ok (k.body none md data) := by
    intro k md data ⟨h1, h2, h3⟩
    rw [decodePlainBody, decodePayload_wirePayload md data hdr h1 h3, wireData_getD h2]
  have counted : ∀ (k : PayloadKind) n md data, k.hasCount = true → (Option.isSome n == p.reqnPrefix) = true →
      (flag.getLsbD 8 = md.isSome ∧ data ≠ some [] ∧ MetadataFits md) →
      decodeCountedBody p k flag (Wire.count n ++ Wire.payload md data) hdr = .ok (k.body n md data) := by
    intro k n md data hk hn h
    cases n with
    | none =>
      have : p.reqnPrefix = false := by simpa using hn
      simpa [decodeCountedBody, this, Wire.count] using plain k md data h
    | some n =>
      have : p.reqnPrefix = true := by simpa using hn
      obtain ⟨h1, h2, h3⟩ := h
      have hs : ∀ x, slice (Wire.u32 n ++ x) 4 (Wire.u32 n ++ x).length = x := by intro x; rw [slice_to_end]; rfl
      have hl : ∀ x, ¬ (Wire.u32 n ++ x).length < 4 := by intro x; simp [Wire.u32]
      have hr : ∀ x, BitVec.ofNat 32 (memRead (Wire.u32 n ++ x) 0 4) = n := by
        intro x; rw [← be_four_eq, memRead_be]; apply BitVec.eq_of_toNat_eq; have := n.isLt; simp; omega
      simp only [decodeCountedBody, this, Wire.count, hs, hl, hr, if_true, if_false,
          decodePayload_wirePayload md data hdr h1 h3, wireData_getD h2]
  have u4 : ∀ (n : BitVec 32) x, BitVec.ofNat 32 (memRead (Wire.u32 n ++ x) 0 4) = n := by
        intro n x; rw [← be_four_eq, memRead_be]; apply BitVec.eq_of_toNat_eq; have := n.isLt; simp; omega
  cases b <;> try cases hx
  case requestResponse md data => exact plain .requestResponse md data hr
  case requestFnf md data => exact plain .requestFnf md data hr
  case payload md data => exact plain .payload md data hr
  case metadataPush md data => exact plain .metadataPush md data hr
  case requestStream n md data => exact counted .requestStream n md data rfl ht hr
  case requestChannel n md data => exact counted .requestChannel n md data rfl ht hr
  case cancel => rfl
  case requestN n =>
    have := u4 n []
    rw [List.append_nil] at this
    simp only [Body.kind, decodeBody, decodeRequestN, Wire.body, this]
    simp [Wire.u32]
  case error c m =>
    have hs : slice (Wire.u32 c ++ m) 4 (Wire.u32 c ++ m).length = m := by rw [slice_to_end]; rfl
    simp only [Body.kind, decodeBody, decodeErrorBody, Wire.body, u4, hs]
    have hl : ¬ (Wire.u32 c ++ m).length < 4 := by simp [Wire.u32]
    rw [if_neg hl]

/-- What an accepted body must have been (R82). -/
theorem decodeBody_accepts {p : Params} {k : Kind} {flag inp hdr b} (h : decodeBody p k flag inp hdr = .ok b) :
    b.kind = k ∧ b.typed p = true ∧ MetadataFits b.metadata ∧
    (k.payload?.isSome = true ∨ k = .error → Wire.body b = inp) ∧ (k = .cancel → Wire.body b = []) ∧
        (k = .requestN → Wire.body b = inp.take 4 ∧ 4 ≤ inp.length) := by
  have nomd : ∀ b : Body, b.parts? = none → MetadataFits b.metadata := by
    intro b hb m hm; simp [Body.metadata, hb] at hm
  have ext : ∀ ek mk, decodeExtBody ek mk flag inp hdr = .ok b → ∃ v, b = mk v := by
    intro ek mk h
    unfold decodeExtBody at h
    split at h
    · exact ⟨_, (Except.ok.inj h).symm⟩
    · cases h
  cases k
  case setup => obtain ⟨v, rfl⟩ := ext _ _ h; exact ⟨rfl, rfl, nomd _ rfl, by simp [Kind.payload?], by simp, by simp⟩
  case lease => obtain ⟨v, rfl⟩ := ext _ _ h; exact ⟨rfl, rfl, nomd _ rfl, by simp [Kind.payload?], by simp, by simp⟩
  case keepalive => obtain ⟨v, rfl⟩ := ext _ _ h; exact ⟨rfl, rfl, nomd _ rfl, by simp [Kind.payload?], by simp,
      by simp⟩
  case resume => obtain ⟨v, rfl⟩ := ext _ _ h; exact ⟨rfl, rfl, nomd _ rfl, by simp [Kind.payload?], by simp, by simp⟩
  case resumeOk => obtain ⟨v, rfl⟩ := ext _ _ h; exact ⟨rfl, rfl, nomd _ rfl, by simp [Kind.payload?], by simp,
      by simp⟩
  case requestResponse => obtain ⟨md, d, hd, rfl⟩ := decodePlainBody_accepts h; exact ⟨rfl, rfl,
      (decodePayload_accepts hd).2.1, fun _ => (decodePayload_accepts hd).1, by simp, by simp⟩
  case requestFnf => obtain ⟨md, d, hd, rfl⟩ := decodePlainBody_accepts h; exact ⟨rfl, rfl,
      (decodePayload_accepts hd).2.1, fun _ => (decodePayload_accepts hd).1, by simp, by simp⟩
  case payload => obtain ⟨md, d, hd, rfl⟩ := decodePlainBody_accepts h; exact ⟨rfl, rfl,
      (decodePayload_accepts hd).2.1, fun _ => (decodePayload_accepts hd).1, by simp, by simp⟩
  case metadataPush => obtain ⟨md, d, hd, rfl⟩ := decodePlainBody_accepts h; exact ⟨rfl, rfl,
      (decodePayload_accepts hd).2.1, fun _ => (decodePayload_accepts hd).1, by simp, by simp⟩
  case requestStream =>
    rcases decodeCountedBody_accepts h with ⟨hp, md, d, hd, rfl⟩ | ⟨hp, n, rest, md, d, rfl, hd, rfl⟩
    · exact ⟨rfl, by simp [PayloadKind.body, Body.typed, hp], (decodePayload_accepts hd).2.1,
          fun _ => (decodePayload_accepts hd).1, by simp, by simp⟩
    · exact ⟨rfl, by simp [PayloadKind.body, Body.typed, hp], (decodePayload_accepts hd).2.1,
          fun _ => by simp [PayloadKind.body, Wire.body, Wire.count, (decodePayload_accepts hd).1], by simp, by simp⟩
  case requestChannel =>
    rcases decodeCountedBody_accepts h with ⟨hp, md, d, hd, rfl⟩ | ⟨hp, n, rest, md, d, rfl, hd, rfl⟩
    · exact ⟨rfl, by simp [PayloadKind.body, Body.typed, hp], (decodePayload_accepts hd).2.1,
          fun _ => (decodePayload_accepts hd).1, by simp, by simp⟩
    · exact ⟨rfl, by simp [PayloadKind.body, Body.typed, hp], (decodePayload_accepts hd).2.1,
          fun _ => by simp [PayloadKind.body, Wire.body, Wire.count, (decodePayload_accepts hd).1], by simp, by simp⟩
  case cancel => cases Except.ok.inj h; exact ⟨rfl, rfl, nomd _ rfl, by simp [Kind.payload?], by simp [Wire.body],
      by simp⟩
  case requestN =>
    simp only [decodeBody, decodeRequestN] at h
    split at h
    · cases h
    · rename_i hl
      obtain ⟨a, b', c, d', rest, rfl⟩ := exists_four_of_not_lt hl
      rw [memRead_four_cons] at h
      cases Except.ok.inj h
      exact ⟨rfl, rfl, nomd _ rfl, by simp [Kind.payload?], by simp, fun _ => ⟨by simp [Wire.body, wireU32_append],
          by simp⟩⟩
  case error =>
    simp only [decodeBody, decodeErrorBody] at h
    split at h
    · cases h
    · rename_i hl
      obtain ⟨a, b', c, d', rest, rfl⟩ := exists_four_of_not_lt hl
      have hs : slice (a :: b' :: c :: d' :: rest) 4 (a :: b' :: c :: d' :: rest).length = rest :=
          by rw [slice_to_end]; rfl
      rw [memRead_four_cons, hs] at h
      cases Except.ok.inj h
      exact ⟨rfl, rfl, nomd _ rfl, fun _ => by simp [Wire.body, wireU32_append], by simp, by simp⟩

/-- The header in the error record is the one that was handed over, and nothing else depends on it (R91). -/
theorem decodeBody_header {p k flag inp h1 h2} :
    (∀ b, decodeBody p k flag inp h1 = .ok b → decodeBody p k flag inp h2 = .ok b) ∧
    (∀ c h, decodeBody p k flag inp h1 = .error ⟨c, h⟩ → h = h1 ∧ decodeBody p k flag inp h2 = .error ⟨c, h2⟩) := by
  have pl : ∀ inp, (∃ x, ∀ h, decodePayload flag inp h = .ok x) ∨ (∃ c, ∀ h, decodePayload flag inp h = .error ⟨c,
      h⟩) := by
    intro inp
    unfold decodePayload
    split
    · split
      · right; exact ⟨_, fun _ => rfl⟩
      · dsimp only; split
        · right; exact ⟨_, fun _ => rfl⟩
        · left; exact ⟨_, fun _ => rfl⟩
    · left; exact ⟨_, fun _ => rfl⟩
  have key : (∃ x, ∀ h, decodeBody p k flag inp h = .ok x) ∨ (∃ c, ∀ h, decodeBody p k flag inp h = .error ⟨c,
      h⟩) := by
    have plain : ∀ k : PayloadKind, (∃ x, ∀ h, decodePlainBody k flag inp h = .ok x) ∨ (∃ c, ∀ h,
        decodePlainBody k flag inp h = .error ⟨c, h⟩) := by
      intro k
      rcases pl inp with ⟨x, hx⟩ | ⟨c, hc⟩
      · left; exact ⟨_, fun h => by rw [decodePlainBody, hx]⟩
      · right; exact ⟨_, fun h => by rw [decodePlainBody, hc]⟩
    have counted : ∀ k : PayloadKind, (∃ x, ∀ h, decodeCountedBody p k flag inp h = .ok x) ∨ (∃ c, ∀ h,
        decodeCountedBody p k flag inp h = .error ⟨c, h⟩) := by
      intro k
      unfold decodeCountedBody
      split
      · split
        · right; exact ⟨_, fun _ => rfl⟩
        · rcases pl (slice inp 4 inp.length) with ⟨x, hx⟩ | ⟨c, hc⟩
          · left; exact ⟨_, fun h => by rw [hx]⟩
          · right; exact ⟨_, fun h => by rw [hc]⟩
      · exact plain k
    have ext : ∀ k mk, (∃ x, ∀ h, decodeExtBody k mk flag inp h = .ok x) ∨ (∃ c, ∀ h,
        decodeExtBody k mk flag inp h = .error ⟨c, h⟩) := by
      intro k mk
      unfold decodeExtBody
      split
      · left; exact ⟨_, fun _ => rfl⟩
      · right; exact ⟨_, fun _ => rfl⟩
    cases k <;> simp only [decodeBody] <;> first
      | exact plain _
      | exact counted _
      | exact ext _ _
      | exact .inl ⟨.cancel, fun _ => rfl⟩
      | skip
    · unfold decodeRequestN; split
      · right; exact ⟨_, fun _ => rfl⟩
      · left; exact ⟨_, fun _ => rfl⟩
    · unfold decodeErrorBody; split
      · right; exact ⟨_, fun _ => rfl⟩
      · left; exact ⟨_, fun _ => rfl⟩
  rcases key with ⟨x, hx⟩ | ⟨c, hc⟩
  · simp [hx]
  · simp only [hc, reduceCtorEq, false_implies, implies_true, true_and, Except.error.injEq, ErrRec.mk.injEq,
        and_imp, true_and]
    rintro _ _ rfl rfl
    simp

/-- No body decode reports an illegal frame type (R90). -/
theorem decodeBody_cause : ∀ p k f body hdr hdr', decodeBody p k f body hdr ≠ .error ⟨.illegalFrameType, hdr'⟩ := by
  intro p k f body hdr hdr'
  have pl : ∀ body hdr', decodePayload f body hdr ≠ .error ⟨.illegalFrameType, hdr'⟩ := by
    intro body hdr'; unfold decodePayload; split <;> [split; skip] <;> [skip; (dsimp only; split); skip] <;> simp
  have pb : ∀ k body hdr', decodePlainBody k f body hdr ≠ .error ⟨.illegalFrameType, hdr'⟩ := by
    intro k body hdr'
    unfold decodePlainBody
    have := pl body hdr'
    revert this
    rcases decodePayload f body hdr with e | ⟨_, _⟩ <;> simp
  have cb : ∀ k body hdr', decodeCountedBody p k f body hdr ≠ .error ⟨.illegalFrameType, hdr'⟩ := by
    intro k body hdr'
    unfold decodeCountedBody
    split
    · split
      · simp
      · have := pl (slice body 4 body.length) hdr'
        revert this
        rcases decodePayload f (slice body 4 body.length) hdr with e | ⟨_, _⟩ <;> simp
    · exact pb _ _ _
  have xb : ∀ k m, decodeExtBody k m f body hdr ≠ .error ⟨.illegalFrameType, hdr'⟩ := by
    intro k m
    unfold decodeExtBody
    split
    · simp
    · rename_i c _; cases c <;> simp [ofExtCause]
  cases k <;> simp only [decodeBody] <;> first | exact pb _ _ _ | exact cb _ _ _ | exact xb _ _ | skip
  · unfold decodeRequestN; split <;> simp
  · simp
  · unfold decodeErrorBody; split <;> simp

end Sys2Proof.Machine
end

