-- ==== Sys2Proof/Laws/Inversion.lean ====
section
/-! SUPPORT. What an instruction can do and what a step can do, said once (R13, R25, R37): invariants and
frames follow from these by cases. -/

namespace Sys2Proof.Machine

/-- FRM_DEC past the header runs the row of the type code. -/
theorem dispatchFrame_eq_exec (h : Header) (body : Bytes) (s : State) : dispatchFrame h body s =
    exec (match kindOf h.type with
      | some k => frameOfKind k h.streamId h.flag body
      | none => frameOfIllegal h.type h.streamId h.flag body) s := by
  unfold dispatchFrame
  cases kindOf h.type with
  | some k => cases k <;> rfl
  | none =>
    simp only [frameOfIllegal]
    by_cases h1 : h.type = 0x00#6
    · simp [h1, exec]
    · by_cases h2 : h.type.toNat < 0x10
      · simp [h1, h2, exec]
      · by_cases h3 : h.type.toNat < 0x20 <;> simp [h1, h2, h3, exec]

/-- How a body decode ends as a command. -/
def bodyEnd (s : State) : Except ErrRec Body → State
  | .ok b => s.endsOk (some (.body b))
  | .error e => s.endsErr e

theorem exec_bodyDec_eq {k flag inp s} {p : Params} {x} (hp : State.params s = p)
    (hf : tooLarge p inp.length = false) (hd : decodeBody p k flag inp none = x) :
    exec (.bodyDec k flag inp) s = .next (bodyEnd s x) := by
  subst hd hp
  simp only [exec, execBodyDec, bodyDecOutcome, hf]
  cases decodeBody s.params k flag inp none <;> rfl

/-- How a frame row ends as a command. -/
def frameEnd (s : State) (sid : BitVec 32) (f : BitVec 10) : Except ErrRec Body → State
  | .ok b => s.endsOk (some (.frame ⟨sid, f.setWidth 16, b⟩))
  | .error e => s.endsErr e

theorem exec_frameOfKind_eq {k : Kind} {sid f body} {s : State} {x}
    (hf : tooLarge s.params (6 + body.length) = false)
    (hd : decodeBody s.params k (f.setWidth 16) body (some ⟨sid, k.code, f⟩) = x) :
    exec (frameOfKind k sid f body) s = .next (frameEnd s sid f x) := by
  subst hd
  have : exec (frameOfKind k sid f body) s = .next (respond (frameOutcome s.params k sid f body) s) :=
      by cases k <;> rfl
  rw [this, frameOutcome, hf]
  cases decodeBody s.params k (f.setWidth 16) body (some ⟨sid, k.code, f⟩) <;> rfl

/-- Whatever the buffer, FRM_DEC only ends with an outcome. -/
theorem exec_frmDec_respond (b : Bytes) (s : State) : ∃ o, exec (.frmDec b) s = .next (respond o s) := by
  have key : ∀ h body, ∃ o, dispatchFrame h body s = .next (respond o s) := by
    intro h body
    rw [dispatchFrame_eq_exec]
    cases kindOf h.type with
    | some k => cases k <;> exact ⟨_, rfl⟩
    | none =>
      simp only [frameOfIllegal]
      split <;> [skip; split <;> [skip; split]] <;> exact ⟨_, rfl⟩
  simp only [exec, execFrmDec]
  split
  · exact ⟨_, rfl⟩
  · split
    · exact ⟨_, rfl⟩
    · exact key _ _

/-- Every instruction ends with an outcome and changes nothing else,
    or appends the bytes it is to append and answers OK, or is
a builder command that answers OK and changes builder registers only. -/
theorem exec_cases (i : Instr) (s : State) :
    (∃ o, exec i s = .next (respond o s) ∧ (i.family = .toOut → ∀ v, o ≠ .ok v) ∧
      ∀ e, o = .err e → i.family = .decoding) ∨
    (∃ e : Emission, i.family = .toOut ∧ i.bufferSize = some e.size ∧ e.bytes.length = e.size ∧
      exec i s = .next (respond (.ok none) (appendOut e.bytes s))) ∨
    (i.family = .building ∧ ∃ t v, exec i s = .next (respond (.ok v) t) ∧ t.params = s.params ∧ t.out = s.out ∧
      t.port = s.port ∧ t.races = s.races ∧ t.faulted = s.faulted ∧ t.refused = s.refused ∧
      (s.BuilderConsistent → t.BuilderConsistent)) := by
  have emit : ∀ (i : Instr) (e : Emission), i.family = .toOut → i.bufferSize = some e.size →
      e.bytes.length = e.size → exec i s = .next (emitToOut e s) →
      (∃ o, exec i s = .next (respond o s) ∧ (i.family = .toOut → ∀ v, o ≠ .ok v) ∧
        ∀ e, o = .err e → i.family = .decoding) ∨
      ∃ e : Emission, i.family = .toOut ∧ i.bufferSize = some e.size ∧ e.bytes.length = e.size ∧
        exec i s = .next (respond (.ok none) (appendOut e.bytes s)) := by
    intro i e hi hb hl hx
    rcases emitToOut_cases e s with ⟨_, h⟩ | ⟨_, _, h⟩ | ⟨_, _, h⟩
    · left; rw [h] at hx; exact ⟨_, hx, by simp, by simp⟩
    · left; rw [h] at hx; exact ⟨_, hx, by simp, by simp⟩
    · right; rw [h] at hx; exact ⟨e, hi, hb, hl, hx⟩
  have typed : ∀ (i : Instr) b k, exec i s = .next (withTypedBody b s k) →
      (exec i s = .next (respond (.refuse .badOperand) s)) ∨ exec i s = .next (k s) := by
    intro i b k hx
    rcases withTypedBody_cases b s k with ⟨_, h⟩ | ⟨_, h⟩ <;> rw [h] at hx
    · exact .inr hx
    · exact .inl hx
  cases i <;> try (left; exact ⟨_, rfl, by simp [Instr.family], by simp [Instr.family]⟩)
  case typeOf b => left; rcases typed (.typeOf b) b _ rfl with h | h <;> exact ⟨_, h, by simp [Instr.family], by simp⟩
  case bodyLen b => left; rcases typed (.bodyLen b) b _ rfl with h | h <;> exact ⟨_, h, by simp [Instr.family],
      by simp⟩
  case frmLen b => left; rcases typed (.frmLen b) b.body _ rfl with h | h <;> exact ⟨_, h, by simp [Instr.family],
      by simp⟩
  case split b =>
    left; rcases typed (.split b) b _ rfl with h | h
    · exact ⟨_, h, by simp [Instr.family], by simp⟩
    · refine ⟨_, h, by simp [Instr.family], ?_⟩
      unfold splitOutcome; split <;> simp
  case plEnc md d =>
    rcases emit (.plEnc md d) (payloadEmission md d) rfl (by simp [Instr.bufferSize, payloadEmission,
        length_wirePayload]) (by simp [payloadEmission]) rfl with h | h
    · exact .inl h
    · exact .inr (.inl h)
  case bodyEnc b =>
    rcases typed (.bodyEnc b) b _ rfl with h | h
    · left; exact ⟨_, h, by simp, by simp⟩
    · rcases emit (.bodyEnc b) (bodyEmission b) rfl (by simp [Instr.bufferSize, bodyEmission,
          length_wireBody]) (by simp [bodyEmission, encodeBody_eq, length_wireBody]) h with h | h
      · exact .inl h
      · exact .inr (.inl h)
  case frmWrite b =>
    rcases typed (.frmWrite b) b.body _ rfl with h | h
    · left; exact ⟨_, h, by simp, by simp⟩
    · rcases emit (.frmWrite b) (frameEmission b) rfl (by simp [Instr.bufferSize, frameEmission,
          length_wireFrame]) (by simp [frameEmission, encodeFrame_eq, length_wireFrame]) h with h | h
      · exact .inl h
      · exact .inr (.inl h)
  case frmEnc b =>
    left
    rcases typed (.frmEnc b) b.body _ rfl with h | h
    · exact ⟨_, h, by simp, by simp⟩
    · rcases emitToRes_cases (frameEmission b) s with ⟨_, h'⟩ | ⟨_, _, h'⟩ | ⟨_, _,
          h'⟩ <;> rw [h'] at h <;> exact ⟨_, h, by simp [Instr.family], by simp⟩
  case frmDec b =>
    left
    obtain ⟨o, h⟩ := exec_frmDec_respond b s
    exact ⟨o, h, by simp [Instr.family], by simp [Instr.family]⟩
  case bInit k sid flag initn =>
    cases hk : k.payload? with
    | none => left; exact ⟨.refuse .badOperand, by simp [exec, execBInit, hk], by simp, by simp⟩
    | some p =>
      cases hv : s.bldValid with
      | true => left; exact ⟨.refuse .builderBusy, by simp [exec, execBInit, hk, hv], by simp, by simp⟩
      | false => right; right; exact ⟨rfl, openBuilder p sid flag initn s, none, by simp [exec, execBInit, hk, hv],
          rfl, rfl, rfl, rfl, rfl, rfl, fun _ _ => by rw [openBuilder]; exact clearMetadata_bit8 _⟩
  all_goals
    cases hv : s.bldValid with
    | false => left; exact ⟨.refuse .noBuilder, by simp [exec, execBSetMd, execBSetData, execBSetAll, execBBuild,
        withBuilder, hv], by simp, by simp⟩
    | true => ?_
  case bSetMd.true m =>
    exact .inr (.inr ⟨rfl, putMetadata (some m) s, none, by simp [exec, execBSetMd, withBuilder, hv], rfl, rfl, rfl, rfl,
      rfl, rfl, fun _ _ => setMetadata_bit8 _⟩)
  case bSetData.true d =>
    exact .inr (.inr ⟨rfl, { s with bldData := some d }, none, by simp [exec, execBSetData, withBuilder, hv], rfl, rfl,
      rfl, rfl, rfl, rfl, fun h hv => h hv⟩)
  case bSetAll.true d md =>
    refine .inr (.inr ⟨rfl, { putMetadata md s with bldData := d }, none, by simp [exec, execBSetAll, withBuilder, hv],
      by simp, by simp, by simp, by simp, by simp, by simp, fun _ _ => ?_⟩)
    cases md with
    | none => exact clearMetadata_bit8 _
    | some m => exact setMetadata_bit8 _
  case bBuild.true =>
    exact .inr (.inr ⟨rfl, { s with bldValid := false }, some (.frame (builtFrame s)),
      by simp [exec, execBBuild, withBuilder, hv], rfl, rfl, rfl, rfl, rfl, rfl, fun _ h => nomatch h⟩)

/-- What a step can do: wait, reset, or run the decoded command (or refuse its operands) on the state without it. `b` is
the output buffer after it: the command's own, unless another agent wrote it meanwhile. -/
theorem step_cases {s t : State} (h : step s = .next t) :
    s.port = [] ∧ t = s ∨
    (∃ rest, s.port = .reset :: rest ∧ t = resetRegisters { s with port := rest }) ∨
    ∃ r rest u b, s.port = .command r :: rest ∧ t = { u with out := b } ∧ b.length = u.out.length ∧
      (r.racedOut = false → b = u.out) ∧
      ((∃ i, decodeCommand r.code (seenOperands r s) = .ok i ∧ exec i (acceptRequest r rest s) = .next u) ∨
        (∃ e, decodeCommand r.code (seenOperands r s) = .error e) ∧
          u = respond (.refuse .badOperand) (acceptRequest r rest s)) := by
  rcases hp : s.port with _ | ⟨_ | _, rest⟩
  · rw [step_idle s hp] at h
    exact .inl ⟨rfl, (Host.Outcome.next.inj h).symm⟩
  · rename_i r
    rw [step_command s r rest hp] at h
    right; right
    have hrun : ∃ u, runCommand r rest s = .next u ∧
        ((∃ i, decodeCommand r.code (seenOperands r s) = .ok i ∧ exec i (acceptRequest r rest s) = .next u) ∨
        (∃ e, decodeCommand r.code (seenOperands r s) = .error e) ∧
          u = respond (.refuse .badOperand) (acceptRequest r rest s)) := by
      unfold runCommand
      split
      · rename_i i hd
        rcases exec_cases i (acceptRequest r rest s) with ⟨_, hx, _⟩ | ⟨_, _, _, _, hx⟩ | ⟨_, _, _, hx, _⟩ <;>
          exact ⟨_, hx, .inl ⟨i, hd, hx⟩⟩
      · rename_i e hd
        exact ⟨_, rfl, .inr ⟨⟨e, hd⟩, rfl⟩⟩
    obtain ⟨u, hu, hcase⟩ := hrun
    rw [hu] at h
    cases ho : r.racedOut with
    | false =>
      rw [settleOut_of_not_raced _ _ _ ho] at h
      exact ⟨r, rest, u, u.out, rfl, (Host.Outcome.next.inj h).symm, rfl, fun _ => rfl, hcase⟩
    | true =>
      simp only [settleOut, ho, if_true, Host.Outcome.next.injEq] at h
      exact ⟨r, rest, u, _, rfl, h.symm, length_racedBytes _ _ _ _, by simp [ho], hcase⟩
  · rw [step_reset s rest hp] at h
    exact .inr (.inl ⟨rest, rfl, (Host.Outcome.next.inj h).symm⟩)

end Sys2Proof.Machine
end

