-- ==== Sys2Proof/Laws/PerInstr.lean ====
section
/-! SUPPORT. Statements made of every instruction, one lemma per constructor.

`RowWord`: the word an instruction is encoded in carries the fixed bits of its row of spec/opcode_table.json. The rows'
match and mask are written out here from the table, not from the encoder. -/

namespace Sys2Proof.Laws.RowWord

/-- A row's fixed bits: a word w belongs to the row when `w & mask = value`. -/
structure Row where
  value : BitVec 16
  mask : BitVec 16
  deriving DecidableEq, Repr

/-- The table's row of an instruction. -/
def row : Instr → Row
  | .frameSetup _ _ _ => ⟨0x0400, 0xFC00⟩
  | .frameLease _ _ _ => ⟨0x0800, 0xFC00⟩
  | .frameKeepalive _ _ _ => ⟨0x0C00, 0xFC00⟩
  | .frameRequestResponse _ _ _ => ⟨0x1000, 0xFC00⟩
  | .frameRequestFnf _ _ _ => ⟨0x1400, 0xFC00⟩
  | .frameRequestStream _ _ _ => ⟨0x1800, 0xFC00⟩
  | .frameRequestChannel _ _ _ => ⟨0x1C00, 0xFC00⟩
  | .frameRequestN _ _ _ => ⟨0x2000, 0xFC00⟩
  | .frameCancel _ _ _ => ⟨0x2400, 0xFC00⟩
  | .framePayload _ _ _ => ⟨0x2800, 0xFC00⟩
  | .frameError _ _ _ => ⟨0x2C00, 0xFC00⟩
  | .frameMetadataPush _ _ _ => ⟨0x3000, 0xFC00⟩
  | .frameResume _ _ _ => ⟨0x3400, 0xFC00⟩
  | .frameResumeOk _ _ _ => ⟨0x3800, 0xFC00⟩
  | .frameIllegal00 _ _ _ => ⟨0x0000, 0xFC00⟩
  | .frameIllegal0F _ _ _ => ⟨0x3C00, 0xFC00⟩
  | .frameIllegal10 _ _ _ _ => ⟨0x4000, 0xC000⟩
  | .frameIllegal20 _ _ _ _ => ⟨0x8000, 0x8000⟩
  | .hdrEnc _ _ _ => ⟨0x01, 0x1F⟩
  | .hdrDec _ => ⟨0x02, 0x1F⟩
  | .hasNext _ => ⟨0x03, 0x1F⟩
  | .hasComplete _ => ⟨0x04, 0x1F⟩
  | .typeOf _ => ⟨0x05, 0x1F⟩
  | .plDec _ _ => ⟨0x06, 0x1F⟩
  | .plEnc _ _ => ⟨0x07, 0x1F⟩
  | .plLen _ _ => ⟨0x08, 0x1F⟩
  | .bodyDec _ _ _ => ⟨0x09, 0x1F⟩
  | .bodyEnc _ => ⟨0x0A, 0x1F⟩
  | .bodyLen _ => ⟨0x0B, 0x1F⟩
  | .frmDec _ => ⟨0x0C, 0x1F⟩
  | .frmEnc _ => ⟨0x0D, 0x1F⟩
  | .frmWrite _ => ⟨0x0E, 0x1F⟩
  | .frmLen _ => ⟨0x0F, 0x1F⟩
  | .bInit _ _ _ _ => ⟨0x10, 0x1F⟩
  | .bSetMd _ => ⟨0x11, 0x1F⟩
  | .bSetData _ => ⟨0x12, 0x1F⟩
  | .bSetAll _ _ => ⟨0x13, 0x1F⟩
  | .bBuild => ⟨0x14, 0x1F⟩
  | .split _ => ⟨0x15, 0x1F⟩
  | .cmdReserved00 => ⟨0x00, 0x1F⟩
  | .cmdReserved16 _ => ⟨0x16, 0x1E⟩
  | .cmdReserved18 _ => ⟨0x18, 0x18⟩

/-- The word the table's masks are about: a frame's type-and-flags word, or a command's code. -/
def word : Encoded → BitVec 16
  | .frame b => BitVec.ofNat 16 (memRead b 4 2)
  | .command code _ => code.setWidth 16

def Statement (i : Instr) : Prop := word (encode i) &&& (row i).mask = (row i).value

theorem word_frame (t : BitVec 6) (sid : BitVec 32) (f : BitVec 10) (b : Bytes) :
    word (.frame (frameBytes t sid f b)) = packWord t (f.setWidth 16) := by
  have h4 : memRead (frameBytes t sid f b) 4 2 = (packWord t (f.setWidth 16)).toNat := by
    rw [frameBytes, writeHeader, List.append_assoc]
    have := memRead_append_right (be 4 sid.toNat) (be 2 (packWord t (f.setWidth 16)).toNat ++ b) 2
    rw [length_be] at this
    rw [this, memRead_be]
    exact Nat.mod_eq_of_lt (packWord t (f.setWidth 16)).isLt
  simp [word, h4]

/-- Under a mask within bits 15:10 the flags do not show. -/
theorem packWord_masked (t : BitVec 6) (f : BitVec 16) (mask : BitVec 16) (h : 0x03FF#16 &&& mask = 0) :
    packWord t f &&& mask = (t.setWidth 16 <<< 10) &&& mask := by
  have hf : f &&& 0x03FF#16 &&& mask = 0 := by rw [BitVec.and_assoc, h]; simp
  have hd : packWord t f &&& mask = (t.setWidth 16 <<< 10 &&& mask) ||| (f &&& 0x03FF#16 &&& mask) := by
    ext i hi
    simp [packWord, Bool.and_or_distrib_right]
  rw [hd, hf]
  simp

/-- A frame row whose type code is fixed. -/
theorem of_frame (t : BitVec 6) (sid : BitVec 32) (f : BitVec 10) (b : Bytes) (value mask : BitVec 16)
    (hm : 0x03FF#16 &&& mask = 0) (hv : (t.setWidth 16 <<< 10) &&& mask = value) :
    word (.frame (frameBytes t sid f b)) &&& mask = value := by
  rw [word_frame, packWord_masked _ _ _ hm, hv]

/-- A command row. -/
theorem of_command (code : BitVec 5) (ops : List Operand) (value mask : BitVec 16)
    (h : code.setWidth 16 &&& mask = value) : word (.command code ops) &&& mask = value := h

section
variable (sid : BitVec 32) (f : BitVec 10) (b : Bytes)
theorem frameSetup : Statement (.frameSetup sid f b) := of_frame _ _ _ _ _ _ (by simp [row]) (by simp [row])
theorem frameLease : Statement (.frameLease sid f b) := of_frame _ _ _ _ _ _ (by simp [row]) (by simp [row])
theorem frameKeepalive : Statement (.frameKeepalive sid f b) := of_frame _ _ _ _ _ _ (by simp [row]) (by simp [row])
theorem frameRequestResponse : Statement (.frameRequestResponse sid f b) :=
  of_frame _ _ _ _ _ _ (by simp [row]) (by simp [row])
theorem frameRequestFnf : Statement (.frameRequestFnf sid f b) := of_frame _ _ _ _ _ _ (by simp [row]) (by simp [row])
theorem frameRequestStream : Statement (.frameRequestStream sid f b) := of_frame _ _ _ _ _ _ (by simp [row]) (by simp [row])
theorem frameRequestChannel : Statement (.frameRequestChannel sid f b) :=
  of_frame _ _ _ _ _ _ (by simp [row]) (by simp [row])
theorem frameRequestN : Statement (.frameRequestN sid f b) := of_frame _ _ _ _ _ _ (by simp [row]) (by simp [row])
theorem frameCancel : Statement (.frameCancel sid f b) := of_frame _ _ _ _ _ _ (by simp [row]) (by simp [row])
theorem framePayload : Statement (.framePayload sid f b) := of_frame _ _ _ _ _ _ (by simp [row]) (by simp [row])
theorem frameError : Statement (.frameError sid f b) := of_frame _ _ _ _ _ _ (by simp [row]) (by simp [row])
theorem frameMetadataPush : Statement (.frameMetadataPush sid f b) := of_frame _ _ _ _ _ _ (by simp [row]) (by simp [row])
theorem frameResume : Statement (.frameResume sid f b) := of_frame _ _ _ _ _ _ (by simp [row]) (by simp [row])
theorem frameResumeOk : Statement (.frameResumeOk sid f b) := of_frame _ _ _ _ _ _ (by simp [row]) (by simp [row])
theorem frameIllegal00 : Statement (.frameIllegal00 sid f b) := of_frame _ _ _ _ _ _ (by simp [row]) (by simp [row])
theorem frameIllegal0F : Statement (.frameIllegal0F sid f b) := of_frame _ _ _ _ _ _ (by simp [row]) (by simp [row])
theorem frameIllegal10 (low : BitVec 4) : Statement (.frameIllegal10 low sid f b) :=
  of_frame _ _ _ _ _ _ (by simp [row]) (by simp only [row]; revert low; decide)
theorem frameIllegal20 (low : BitVec 5) : Statement (.frameIllegal20 low sid f b) :=
  of_frame _ _ _ _ _ _ (by simp [row]) (by simp only [row]; revert low; decide)
end

theorem hdrEnc (sid : BitVec 32) (type : BitVec 6) (flag : BitVec 16) : Statement (.hdrEnc sid type flag) :=
  of_command _ _ _ _ (by simp [row])
theorem hdrDec (inp : Bytes) : Statement (.hdrDec inp) :=
  of_command _ _ _ _ (by simp [row])
theorem hasNext (flag : BitVec 16) : Statement (.hasNext flag) :=
  of_command _ _ _ _ (by simp [row])
theorem hasComplete (flag : BitVec 16) : Statement (.hasComplete flag) :=
  of_command _ _ _ _ (by simp [row])
theorem typeOf (body : Body) : Statement (.typeOf body) :=
  of_command _ _ _ _ (by simp [row])
theorem plDec (flag : BitVec 16) (inp : Bytes) : Statement (.plDec flag inp) :=
  of_command _ _ _ _ (by simp [row])
theorem plEnc (md data : Option Bytes) : Statement (.plEnc md data) :=
  of_command _ _ _ _ (by simp [row])
theorem plLen (md data : Option Bytes) : Statement (.plLen md data) :=
  of_command _ _ _ _ (by simp [row])
theorem bodyDec (kind : Kind) (flag : BitVec 16) (inp : Bytes) : Statement (.bodyDec kind flag inp) :=
  of_command _ _ _ _ (by simp [row])
theorem bodyEnc (body : Body) : Statement (.bodyEnc body) :=
  of_command _ _ _ _ (by simp [row])
theorem bodyLen (body : Body) : Statement (.bodyLen body) :=
  of_command _ _ _ _ (by simp [row])
theorem frmDec (inp : Bytes) : Statement (.frmDec inp) :=
  of_command _ _ _ _ (by simp [row])
theorem frmEnc (frame : Frame) : Statement (.frmEnc frame) :=
  of_command _ _ _ _ (by simp [row])
theorem frmWrite (frame : Frame) : Statement (.frmWrite frame) :=
  of_command _ _ _ _ (by simp [row])
theorem frmLen (frame : Frame) : Statement (.frmLen frame) :=
  of_command _ _ _ _ (by simp [row])
theorem bInit (kind : Kind) (sid : BitVec 32) (flag : BitVec 16) (initn : BitVec 32) :
    Statement (.bInit kind sid flag initn) := of_command _ _ _ _ (by simp [row])
theorem bSetMd (m : Bytes) : Statement (.bSetMd m) :=
  of_command _ _ _ _ (by simp [row])
theorem bSetData (d : Bytes) : Statement (.bSetData d) :=
  of_command _ _ _ _ (by simp [row])
theorem bSetAll (data md : Option Bytes) : Statement (.bSetAll data md) :=
  of_command _ _ _ _ (by simp [row])
theorem bBuild : Statement .bBuild :=
  of_command _ _ _ _ (by simp [row])
theorem split (body : Body) : Statement (.split body) :=
  of_command _ _ _ _ (by simp [row])
theorem cmdReserved00 : Statement .cmdReserved00 :=
  of_command _ _ _ _ (by simp [row])
theorem cmdReserved16 (low : BitVec 1) : Statement (.cmdReserved16 low) :=
  of_command _ _ _ _ (by simp only [row]; revert low; decide)
theorem cmdReserved18 (low : BitVec 3) : Statement (.cmdReserved18 low) :=
  of_command _ _ _ _ (by simp only [row]; revert low; decide)

end Sys2Proof.Laws.RowWord
end

