-- ==== Sys2Proof/Laws/Races.lean ====
section
/-! SUPPORT. What a race changes (20_memory.md R42; log entry 9): which bytes a raced command reads, that its operand
fields keep their types, and the state a command starts from and leaves. -/

namespace Sys2Proof.Machine

/-- Every byte of a raced buffer is the free value of its offset. -/
theorem getElem?_racedBytes (n : Nat) (w : RacedBuffer) (i : Nat) (b : Bytes) (j : Nat) :
    (racedBytes n w i b)[j]? = if j < b.length then some (Config.racedByte n w (i + j)) else none := by
  induction b generalizing i j with
  | nil => simp [racedBytes]
  | cons x b ih =>
    cases j with
    | zero => simp [racedBytes]
    | succ j => simp [racedBytes, ih, ← Nat.add_assoc, Nat.add_right_comm]

/-- An operand field that is not IN is read as it was issued. -/
theorem seenOperand_of_not_input {n : Nat} {o : Operand} (h : ∀ b, o ≠ .input b) : seenOperand n o = o := by
  cases o <;> first | rfl | exact absurd rfl (h _)

theorem seenOperands_of_no_input (r : Request) (s : State) (h : ∀ b : Bytes, Operand.input b ∉ r.operands) :
    seenOperands r s = r.operands := by
  unfold seenOperands
  split
  · exact (List.map_congr_left fun o ho => seenOperand_of_not_input fun b hb => h b (hb ▸ ho)).trans (List.map_id' _)
  · rfl

/-- IN stays IN, and every other field is itself. -/
theorem seenOperand_eq_iff (n : Nat) (o p : Operand) :
    seenOperand n o = p ↔ (o = p ∧ ∀ b, p ≠ .input b) ∨ ∃ b, o = .input b ∧ p = .input (racedBytes n .input 0 b) := by
  cases o <;> cases p <;> simp [seenOperand, eq_comm]

/-- A race changes no operand's type: fields that are ill typed without it are ill typed with it. -/
theorem decodeCommand_map_seenOperand_error {code : BitVec 5} {ops : List Operand} {m : String} (n : Nat)
    (h : decodeCommand code ops = .error (.badOperand m)) :
    decodeCommand code (ops.map (seenOperand n)) = .error (.badOperand m) := by
  unfold decodeCommand at h ⊢
  generalize code.toNat = c at h ⊢
  split at h <;> first
    | cases h
    | (split
       · rename_i heq
         simp [List.map_eq_cons_iff, seenOperand_eq_iff] at heq
         exfalso
         revert h
         aesop
       · split at h
         · cases h
         · exact h)

/-- The state a command starts from. -/
theorem acceptRequest_eq_taking (r : Request) (rest : List Event) (s : State) :
    acceptRequest r rest s = s.taking r rest := by
  cases hi : r.racedIn <;> cases ho : r.racedOut <;> simp [acceptRequest, hi, ho]

/-- The state a command leaves. -/
theorem settleOut_next (r : Request) (s t : State) : settleOut r s.races (.next t) = .next (s.settling r t) := by
  cases ho : r.racedOut <;> simp [settleOut, ho]

end Sys2Proof.Machine
end

