-- ==== Sys2Proof/Tests/Slice0.lean ====
section
/-! SUPPORT. Our own tests: ill-formed terms that the check refuses, a word written out for every constructor, one or two
steps per instruction with results from 95_test_vectors.md (each names its row), and a witness for the hypotheses of every
obligation that has some. -/

namespace Sys2Proof.Tests

open Sys2Proof.Machine

/-! ### Helpers -/

/-- The next state, if there is one. -/
def after (o : Host.Outcome State Fault Refusal) : Option State :=
  match o with
  | .next t => some t
  | .fault _ => none
  | .refused _ => none

/-- What a command leaves in STATUS, RES and ERRREC. -/
def answer (i : Instr) (s : State) : Option (Status × Option Value × Option ErrRec) :=
  (after (exec i s)).map fun t => (t.status, t.res, t.errrec)

/-- What a command leaves in STATUS and OUT. -/
def written (i : Instr) (s : State) : Option (Status × Bytes) :=
  (after (exec i s)).map fun t => (t.status, t.out)

/-- What a command leaves in STATUS, BLD_VALID, BLD_FLAG, BLD_MD and BLD_DATA. -/
def staged (i : Instr) (s : State) : Option (Status × Bool × BitVec 16 × Option Bytes × Option Bytes) :=
  (after (exec i s)).map fun t => (t.status, t.bldValid, t.bldFlag, t.bldMd, t.bldData)

/-- Reset with other parameters. -/
def under (maxFrame : Option Nat) (reqnPrefix : Bool) : State :=
  { State.reset with params := { maxFrame := maxFrame, reqnPrefix := reqnPrefix } }

/-- Reset with these events issued. -/
def issued (events : List Event) : State := { State.reset with port := events }

/-- An open builder for a Payload frame with metadata "k" and data "b". -/
def building : State :=
  { State.reset with
    bldValid := true, bldKind := .payload, bldSid := 2, bldFlag := 0x0160#16, bldMd := some [0x6B]
    bldData := some [0x62] }

/-- An open builder for a RequestStream frame where the count prefix is on. -/
def buildingStream : State :=
  { under none true with
    bldValid := true, bldKind := .requestStream, bldSid := 9, bldFlag := 0x0020#16, bldInitn := 5 }

/-- Metadata one byte longer than a 24-bit length can state. -/
@[irreducible] def longMetadata : Bytes := List.replicate 0x1000000 0

theorem length_longMetadata : longMetadata.length = 0x1000000 := by
  unfold longMetadata
  exact List.length_replicate

/-- The longest metadata a 24-bit length can state. -/
@[irreducible] def edgeMetadata : Bytes := List.replicate 0xFFFFFF 0

theorem length_edgeMetadata : edgeMetadata.length = 0xFFFFFF := by
  unfold edgeMetadata
  exact List.length_replicate

theorem not_fits_longMetadata : ¬ MetadataFits (some longMetadata) := by
  intro h
  have := h _ rfl
  rw [length_longMetadata] at this
  omega

theorem fits_edgeMetadata : MetadataFits (some edgeMetadata) := by
  intro m hm
  cases hm
  rw [length_edgeMetadata]

theorem fits_none_metadata : MetadataFits none := fun _ h => nomatch h

theorem fits_short_metadata (x : Byte) : MetadataFits (some [x]) := by
  intro m hm
  cases hm
  simp

theorem fits_no_limit (n : Nat) (b : Bool) : Fits (under none b).params n := fun _ h => nomatch h

theorem fits_at_limit (n : Nat) (b : Bool) : Fits (under (some n) b).params n := by
  intro m hm
  cases hm
  exact Nat.le_refl n

theorem not_fits_past_limit (n : Nat) (b : Bool) : ¬ Fits (under (some n) b).params (n + 1) := by
  intro h
  exact Nat.not_succ_le_self n (h n rfl)

/-! ### WellFormed refuses what is not of its field's type (R53, R65, R16) -/

theorem test_ill_formed_bInit_kind :
    (Instr.bInit .cancel 1 0 0).WellFormed { maxFrame := none, reqnPrefix := false } = false := by decide
theorem test_ill_formed_split_body :
    (Instr.split .cancel).WellFormed { maxFrame := none, reqnPrefix := false } = false := by decide
theorem test_ill_formed_split_external :
    (Instr.split (.setup ⟨0⟩)).WellFormed { maxFrame := none, reqnPrefix := false } = false := by decide
theorem test_ill_formed_count_missing :
    (Instr.bodyEnc (.requestStream none none none)).WellFormed { maxFrame := none, reqnPrefix := true } = false := by
  decide
theorem test_ill_formed_count_too_many :
    (Instr.frmEnc ⟨1, 0, .requestChannel (some 5) none none⟩).WellFormed { maxFrame := none, reqnPrefix := false }
      = false := by decide
theorem test_ill_formed_type_of :
    (Instr.typeOf (.requestChannel none none none)).WellFormed { maxFrame := none, reqnPrefix := true } = false := by
  decide
theorem test_ill_formed_body_len :
    (Instr.bodyLen (.requestStream (some 1) none none)).WellFormed { maxFrame := none, reqnPrefix := false } = false := by
  decide
theorem test_ill_formed_frm_write :
    (Instr.frmWrite ⟨1, 0, .requestStream none none none⟩).WellFormed { maxFrame := none, reqnPrefix := true }
      = false := by decide
theorem test_ill_formed_frm_len :
    (Instr.frmLen ⟨1, 0, .requestStream (some 0) none none⟩).WellFormed { maxFrame := none, reqnPrefix := false }
      = false := by decide
theorem test_well_formed_count :
    (Instr.frmEnc ⟨1, 0, .requestChannel (some 5) none none⟩).WellFormed { maxFrame := none, reqnPrefix := true }
      = true := by decide

/-! ### A word written out for every constructor: the type code's six bits above the ten flag bits (R45, R47), or the
five-bit command code (R52) -/

theorem test_word_frameSetup :
    decodeFrame [0x00, 0x00, 0x00, 0x07, 0b00000101, 0b01010101, 0xAB] = .ok (.frameSetup 7 0b0101010101#10 [0xAB]) := by rfl
theorem test_word_frameLease :
    decodeFrame [0x00, 0x00, 0x00, 0x07, 0b00001001, 0b01010101, 0xAB] = .ok (.frameLease 7 0b0101010101#10 [0xAB]) := by rfl
theorem test_word_frameKeepalive :
    decodeFrame [0x00, 0x00, 0x00, 0x07, 0b00001101, 0b01010101, 0xAB] = .ok (.frameKeepalive 7 0b0101010101#10 [0xAB]) := by rfl
theorem test_word_frameRequestResponse :
    decodeFrame [0x00, 0x00, 0x00, 0x07, 0b00010001, 0b01010101, 0xAB] = .ok (.frameRequestResponse 7 0b0101010101#10 [0xAB]) := by rfl
theorem test_word_frameRequestFnf :
    decodeFrame [0x00, 0x00, 0x00, 0x07, 0b00010101, 0b01010101, 0xAB] = .ok (.frameRequestFnf 7 0b0101010101#10 [0xAB]) := by rfl
theorem test_word_frameRequestStream :
    decodeFrame [0x00, 0x00, 0x00, 0x07, 0b00011001, 0b01010101, 0xAB] = .ok (.frameRequestStream 7 0b0101010101#10 [0xAB]) := by rfl
theorem test_word_frameRequestChannel :
    decodeFrame [0x00, 0x00, 0x00, 0x07, 0b00011101, 0b01010101, 0xAB] = .ok (.frameRequestChannel 7 0b0101010101#10 [0xAB]) := by rfl
theorem test_word_frameRequestN :
    decodeFrame [0x00, 0x00, 0x00, 0x07, 0b00100001, 0b01010101, 0xAB] = .ok (.frameRequestN 7 0b0101010101#10 [0xAB]) := by rfl
theorem test_word_frameCancel :
    decodeFrame [0x00, 0x00, 0x00, 0x07, 0b00100101, 0b01010101, 0xAB] = .ok (.frameCancel 7 0b0101010101#10 [0xAB]) := by rfl
theorem test_word_framePayload :
    decodeFrame [0x00, 0x00, 0x00, 0x07, 0b00101001, 0b01010101, 0xAB] = .ok (.framePayload 7 0b0101010101#10 [0xAB]) := by rfl
theorem test_word_frameError :
    decodeFrame [0x00, 0x00, 0x00, 0x07, 0b00101101, 0b01010101, 0xAB] = .ok (.frameError 7 0b0101010101#10 [0xAB]) := by rfl
theorem test_word_frameMetadataPush :
    decodeFrame [0x00, 0x00, 0x00, 0x07, 0b00110001, 0b01010101, 0xAB] = .ok (.frameMetadataPush 7 0b0101010101#10 [0xAB]) := by rfl
theorem test_word_frameResume :
    decodeFrame [0x00, 0x00, 0x00, 0x07, 0b00110101, 0b01010101, 0xAB] = .ok (.frameResume 7 0b0101010101#10 [0xAB]) := by rfl
theorem test_word_frameResumeOk :
    decodeFrame [0x00, 0x00, 0x00, 0x07, 0b00111001, 0b01010101, 0xAB] = .ok (.frameResumeOk 7 0b0101010101#10 [0xAB]) := by rfl
theorem test_word_frameIllegal00 :
    decodeFrame [0x00, 0x00, 0x00, 0x07, 0b00000001, 0b01010101, 0xAB] = .ok (.frameIllegal00 7 0b0101010101#10 [0xAB]) := by rfl
theorem test_word_frameIllegal0F :
    decodeFrame [0x00, 0x00, 0x00, 0x07, 0b00111101, 0b01010101, 0xAB] = .ok (.frameIllegal0F 7 0b0101010101#10 [0xAB]) := by rfl
theorem test_word_frameIllegal10 :
    decodeFrame [0x00, 0x00, 0x00, 0x07, 0b01011001, 0b01010101] = .ok (.frameIllegal10 0b0110#4 7 0b0101010101#10 []) := by rfl
theorem test_word_frameIllegal20 :
    decodeFrame [0x00, 0x00, 0x00, 0x07, 0b11011001, 0b01010101] = .ok (.frameIllegal20 0b10110#5 7 0b0101010101#10 []) := by rfl
theorem test_code_hdrEnc : decodeCommand 0b00001#5 [.u32 7, .u6 5, .u16 9] = .ok (.hdrEnc 7 5 9) := by rfl
theorem test_code_hdrDec : decodeCommand 0b00010#5 [.input [1]] = .ok (.hdrDec [1]) := by rfl
theorem test_code_hasNext : decodeCommand 0b00011#5 [.u16 9] = .ok (.hasNext 9) := by rfl
theorem test_code_hasComplete : decodeCommand 0b00100#5 [.u16 9] = .ok (.hasComplete 9) := by rfl
theorem test_code_typeOf : decodeCommand 0b00101#5 [.body .cancel] = .ok (.typeOf .cancel) := by rfl
theorem test_code_plDec : decodeCommand 0b00110#5 [.u16 9, .input [1]] = .ok (.plDec 9 [1]) := by rfl
theorem test_code_plEnc : decodeCommand 0b00111#5 [.optBytes (some [1]), .optBytes none] = .ok (.plEnc (some [1]) none) := by rfl
theorem test_code_plLen : decodeCommand 0b01000#5 [.optBytes none, .optBytes (some [1])] = .ok (.plLen none (some [1])) := by rfl
theorem test_code_bodyDec : decodeCommand 0b01001#5 [.kind .error, .u16 9, .input [1]] = .ok (.bodyDec .error 9 [1]) := by rfl
theorem test_code_bodyEnc : decodeCommand 0b01010#5 [.body .cancel] = .ok (.bodyEnc .cancel) := by rfl
theorem test_code_bodyLen : decodeCommand 0b01011#5 [.body .cancel] = .ok (.bodyLen .cancel) := by rfl
theorem test_code_frmDec : decodeCommand 0b01100#5 [.input [1]] = .ok (.frmDec [1]) := by rfl
theorem test_code_frmEnc : decodeCommand 0b01101#5 [.frame ⟨3, 9, .cancel⟩] = .ok (.frmEnc ⟨3, 9, .cancel⟩) := by rfl
theorem test_code_frmWrite : decodeCommand 0b01110#5 [.frame ⟨3, 9, .cancel⟩] = .ok (.frmWrite ⟨3, 9, .cancel⟩) := by rfl
theorem test_code_frmLen : decodeCommand 0b01111#5 [.frame ⟨3, 9, .cancel⟩] = .ok (.frmLen ⟨3, 9, .cancel⟩) := by rfl
theorem test_code_bInit : decodeCommand 0b10000#5 [.kind .payload, .u32 7, .u16 9, .u32 5] = .ok (.bInit .payload 7 9 5) := by rfl
theorem test_code_bSetMd : decodeCommand 0b10001#5 [.bytes [1]] = .ok (.bSetMd [1]) := by rfl
theorem test_code_bSetData : decodeCommand 0b10010#5 [.bytes [1]] = .ok (.bSetData [1]) := by rfl
theorem test_code_bSetAll : decodeCommand 0b10011#5 [.optBytes (some [1]), .optBytes none] = .ok (.bSetAll (some [1]) none) := by rfl
theorem test_code_bBuild : decodeCommand 0b10100#5 [] = .ok (.bBuild) := by rfl
theorem test_code_split : decodeCommand 0b10101#5 [.body .cancel] = .ok (.split .cancel) := by rfl
theorem test_code_cmdReserved00 : decodeCommand 0b00000#5 [] = .ok (.cmdReserved00) := by rfl
theorem test_code_cmdReserved16 : decodeCommand 0b10111#5 [] = .ok (.cmdReserved16 0b1#1) := by rfl
theorem test_code_cmdReserved18 : decodeCommand 0b11101#5 [] = .ok (.cmdReserved18 0b101#3) := by rfl

/-! ### The table's words, and a step from reset that runs one -/

theorem test_table_word_frame : decodeTableWord 16 0x2560 = some (.frameCancel 0 0x160#10 []) := by decide
theorem test_table_word_command : decodeTableWord 8 0x04 = some (.hasComplete 0) := by decide
theorem test_table_word_reserved : decodeTableWord 8 0x1F = some (.cmdReserved18 7) := by decide
theorem test_table_word_no_code : decodeTableWord 8 0x21 = none := by decide
theorem test_fetched_frame_runs_first :
    (after (step (State.reset.withFetchWord 16 0x2400))).map (fun t => (t.status, t.res, t.port))
      = some (.ok, some (.frame ⟨0, 0, .cancel⟩), []) := by decide
theorem test_fetched_command_runs_first :
    (after (step (State.reset.withFetchWord 8 0x10))).map (fun t => (t.status, t.bldValid)) = some (.ok, true) := by
  decide
theorem test_reset_drops_an_open_builder :
    (after (step { building with port := [.reset], faulted := true, out := [1] })).map
      (fun t => (t.bldValid, t.status, t.faulted, t.out)) = some (false, .idle, false, [1]) := by decide
theorem test_ill_typed_operands_are_refused :
    (after (step (issued [.command { code := 0x03, operands := [.u32 5] }]))).map (fun t => (t.status, t.refused))
      = some (.refuse, true) := by decide

/-! ### One step per instruction (95_test_vectors.md) -/

/-- L2.1 -/
theorem test_hdrEnc :
    answer (.hdrEnc 0x01020304 0x0A 0x0160) State.reset
      = some (.ok, some (.bytes [0x01, 0x02, 0x03, 0x04, 0x29, 0x60]), none) := by decide
/-- L2.1: bits 15:10 dropped, an unnamed type packed -/
theorem test_hdrEnc_masks :
    answer (.hdrEnc 0 0x3F 0xFFFF) State.reset
      = some (.ok, some (.bytes [0x00, 0x00, 0x00, 0x00, 0xFF, 0xFF]), none) := by decide
/-- L2.1: no type check -/
theorem test_hdrDec :
    answer (.hdrDec [0x00, 0x00, 0x00, 0x01, 0xFE, 0x00]) State.reset
      = some (.ok, some (.header ⟨1, 0x3F, 0x200⟩), none) := by decide
/-- L2.1: N = 5 -/
theorem test_hdrDec_short :
    answer (.hdrDec [0x00, 0x00, 0x00, 0x07, 0x14]) State.reset
      = some (.err, none, some ⟨.truncated, none⟩) := by decide
/-- L2.1 -/
theorem test_hasNext : answer (.hasNext 0x0020) State.reset = some (.ok, some (.bit true), none) := by decide
/-- L2.1 -/
theorem test_hasNext_only_bit_5 :
    answer (.hasNext 0xFFDF) State.reset
      = some (.ok, some (.bit false), none) := by decide
/-- L2.1 -/
theorem test_hasComplete : answer (.hasComplete 0x0060) State.reset = some (.ok, some (.bit true), none) := by decide
/-- L2.1 -/
theorem test_hasComplete_not_next :
    answer (.hasComplete 0x0020) State.reset
      = some (.ok, some (.bit false), none) := by decide
/-- R60 -/
theorem test_typeOf : answer (.typeOf .cancel) State.reset = some (.ok, some (.typeCode 0x09), none) := by decide
/-- L2.1 -/
theorem test_typeOf_external :
    answer (.typeOf (.resumeOk ⟨3⟩)) State.reset
      = some (.ok, some (.typeCode 0x0E), none) := by decide
/-- L2.2 -/
theorem test_plDec :
    answer (.plDec 0x0100 [0x00, 0x00, 0x02, 0x61, 0x62, 0x63]) State.reset
      = some (.ok, some (.pair (some [0x61, 0x62]) (some [0x63])), none) := by decide
/-- L1.5 -/
theorem test_plDec_overrun :
    answer (.plDec 0x0100 [0x00, 0x00, 0x05, 0x61, 0x62]) State.reset
      = some (.err, none, some ⟨.lengthOverrun, none⟩) := by decide
/-- R63 -/
theorem test_plEnc :
    written (.plEnc (some [0x6D]) (some [0x68, 0x69])) { State.reset with out := [0x01] }
      = some (.ok, [0x01, 0x00, 0x00, 0x01, 0x6D, 0x68, 0x69]) := by decide
/-- L3 P5 step 3: oversize metadata faults and OUT is unchanged. -/
theorem test_plEnc_oversize :
    ∃ t, exec (.plEnc (some longMetadata) none) { State.reset with out := [0x01] } = .next t ∧ t.status = .fault ∧
      t.faulted = true ∧ t.out = [0x01] := by
  refine ⟨_, rfl, ?_⟩
  rw [emitToOut_of_oversize rfl (by simp [payloadEmission, oversizeMetadata, length_longMetadata])]
  exact ⟨rfl, rfl, rfl⟩
/-- R64 -/
theorem test_plLen :
    answer (.plLen (some [0x61, 0x62]) (some [0x63])) State.reset
      = some (.ok, some (.natural 6), none) := by decide
/-- R64 -/
theorem test_plLen_empty_metadata :
    answer (.plLen (some []) none) State.reset
      = some (.ok, some (.natural 3), none) := by decide
/-- R65: data first -/
theorem test_split :
    answer (.split (.requestFnf (some [0x6D]) (some [0x68]))) State.reset
      = some (.ok, some (.pair (some [0x68]) (some [0x6D])), none) := by decide
/-- R65 -/
theorem test_split_refused : answer (.split .cancel) State.reset = some (.refuse, none, none) := by decide
/-- L2.3 -/
theorem test_bodyDec :
    answer (.bodyDec .error 0 [0x00, 0x00, 0x01, 0x02, 0x6F, 0x6B]) State.reset
      = some (.ok, some (.body (.error 0x00000102 [0x6F, 0x6B])), none) := by decide
/-- L2.3, with the count prefix -/
theorem test_bodyDec_count :
    answer (.bodyDec .requestChannel 0x0100 [0x00, 0x00, 0x00, 0x05, 0x00, 0x00, 0x01, 0x6D, 0x61]) (under none true)
      = some (.ok, some (.body (.requestChannel (some 5) (some [0x6D]) (some [0x61]))), none) := by decide
/-- L2.3, with the count prefix -/
theorem test_bodyEnc :
    written (.bodyEnc (.requestStream (some 5) none (some [0x61]))) (under none true)
      = some (.ok, [0x00, 0x00, 0x00, 0x05, 0x61]) := by decide
/-- L2.3 -/
theorem test_bodyEnc_error :
    written (.bodyEnc (.error 0x00000201 [0x78])) State.reset
      = some (.ok, [0x00, 0x00, 0x02, 0x01, 0x78]) := by decide
/-- L2.3 -/
theorem test_bodyLen :
    answer (.bodyLen (.requestChannel (some 1) (some []) none)) (under none true)
      = some (.ok, some (.natural 7), none) := by decide
/-- L2.3 -/
theorem test_bodyLen_error :
    answer (.bodyLen (.error 1 [0x78])) State.reset
      = some (.ok, some (.natural 5), none) := by decide
/-- L1.2, with shorter data -/
theorem test_frmDec :
    answer (.frmDec [0x00, 0x00, 0x00, 0x07, 0x15, 0x00, 0x00, 0x00, 0x01, 0x6D, 0x68, 0x69]) State.reset
      = some (.ok, some (.frame ⟨7, 0x0100, .requestFnf (some [0x6D]) (some [0x68, 0x69])⟩), none) := by decide
/-- L2.4 -/
theorem test_frmDec_illegal_beats_body :
    answer (.frmDec [0x00, 0x00, 0x00, 0x01, 0xFD, 0x00]) State.reset
      = some (.err, none, some ⟨.illegalFrameType, some ⟨1, 0x3F, 0x100⟩⟩) := by decide
/-- L2.4: record bits 15:10 dropped -/
theorem test_frmEnc :
    answer (.frmEnc ⟨1, 0xFC20, .payload none (some [0x61])⟩) State.reset
      = some (.ok, some (.bytes [0x00, 0x00, 0x00, 0x01, 0x28, 0x20, 0x61]), none) := by decide
/-- L2.7 -/
theorem test_frmEnc_too_large :
    answer (.frmEnc ⟨3, 0, .cancel⟩) (under (some 5) false)
      = some (.refuse, none, none) := by decide
/-- L2.4 -/
theorem test_frmWrite :
    written (.frmWrite ⟨3, 0, .cancel⟩) { State.reset with out := [0x01] }
      = some (.ok, [0x01, 0x00, 0x00, 0x00, 0x03, 0x24, 0x00]) := by decide
/-- L3 P5 step 1 -/
theorem test_frmWrite_requestN :
    written (.frmWrite ⟨3, 0, .requestN 2⟩) State.reset
      = some (.ok, [0x00, 0x00, 0x00, 0x03, 0x20, 0x00, 0x00, 0x00, 0x00, 0x02]) := by decide
/-- L2.4 -/
theorem test_frmLen :
    answer (.frmLen ⟨3, 0, .requestN 10⟩) State.reset
      = some (.ok, some (.natural 10), none) := by decide
/-- L2.4 -/
theorem test_frmLen_metadata :
    answer (.frmLen ⟨0, 0x0100, .metadataPush (some [0x78]) none⟩) State.reset
      = some (.ok, some (.natural 10), none) := by decide
/-- L2.6: bit 8 cleared -/
theorem test_bInit : staged (.bInit .payload 2 0x0160 0) State.reset = some (.ok, true, 0x0060, none, none) := by rfl
/-- C9: the kind is checked first -/
theorem test_bInit_kind_before_busy :
    (after (exec (.bInit .cancel 1 0 0) building)).map (·.outcome)
      = some (some (.refuse .badOperand)) := by decide
/-- L2.6 -/
theorem test_bSetMd :
    staged (.bSetMd []) { building with bldFlag := 0x0060, bldMd := none, bldData := none }
      = some (.ok, true, 0x0160, some [], none) := by rfl
/-- L2.6 -/
theorem test_bSetData :
    (after (exec (.bSetData [0x7A]) State.reset)).map (fun t => (t.outcome, t.refused))
      = some (some (.refuse .noBuilder), true) := by decide
/-- L2.6: the clearing path -/
theorem test_bSetAll : staged (.bSetAll none none) building = some (.ok, true, 0x0060, none, none) := by rfl
/-- L2.6 (C7) -/
theorem test_bSetAll_sets :
    staged (.bSetAll (some [0x62]) (some [0x6B])) { building with bldFlag := 0x0060, bldMd := none }
      = some (.ok, true, 0x0160, some [0x6B], some [0x62]) := by rfl
/-- L2.6 -/
theorem test_bBuild :
    answer .bBuild building
      = some (.ok, some (.frame ⟨2, 0x0160, .payload (some [0x6B]) (some [0x62])⟩), none) := by decide
/-- R87, with the count prefix -/
theorem test_bBuild_count :
    answer .bBuild buildingStream
      = some (.ok, some (.frame ⟨9, 0x0020, .requestStream (some 5) none none⟩), none) := by decide
/-- L2.7 -/
theorem test_cmdReserved00 : answer .cmdReserved00 State.reset = some (.refuse, none, none) := by decide
/-- L2.7 -/
theorem test_cmdReserved16 : answer (.cmdReserved16 0) State.reset = some (.refuse, none, none) := by decide
/-- L2.7 -/
theorem test_cmdReserved18 : answer (.cmdReserved18 7) State.reset = some (.refuse, none, none) := by decide
/-- L2.4 -/
theorem test_frameRequestResponse :
    answer (.frameRequestResponse 0 0x020 [0x78]) State.reset
      = some (.ok, some (.frame ⟨0, 0x0020, .requestResponse none (some [0x78])⟩), none) := by decide
/-- L2.4 -/
theorem test_frameRequestFnf :
    answer (.frameRequestFnf 1 0x100 [0x61, 0x62, 0x63, 0x64]) State.reset
      = some (.err, none, some ⟨.lengthOverrun, some ⟨1, 0x05, 0x100⟩⟩) := by decide
/-- L2.4 -/
theorem test_frameRequestFnf_short :
    answer (.frameRequestFnf 1 0x100 [0x68, 0x69]) State.reset
      = some (.err, none, some ⟨.truncated, some ⟨1, 0x05, 0x100⟩⟩) := by decide
/-- L2.4, with the count prefix -/
theorem test_frameRequestStream :
    answer (.frameRequestStream 1 0 [0x00, 0x00, 0x00, 0x05, 0x61]) (under none true)
      = some (.ok, some (.frame ⟨1, 0, .requestStream (some 5) none (some [0x61])⟩), none) := by decide
/-- L2.4, without it -/
theorem test_frameRequestStream_no_prefix :
    answer (.frameRequestStream 1 0 [0x00, 0x00, 0x00, 0x05, 0x61]) State.reset
      = some (.ok, some (.frame ⟨1, 0, .requestStream none none (some [0x00, 0x00, 0x00, 0x05, 0x61])⟩), none) := by decide
/-- R69: the prefix is cut short -/
theorem test_frameRequestChannel :
    answer (.frameRequestChannel 1 0 [0x00, 0x00, 0x05]) (under none true)
      = some (.err, none, some ⟨.truncated, some ⟨1, 0x07, 0⟩⟩) := by decide
/-- L2.4 -/
theorem test_frameRequestN :
    answer (.frameRequestN 3 0 [0x00, 0x00, 0x00, 0x0A]) State.reset
      = some (.ok, some (.frame ⟨3, 0, .requestN 10⟩), none) := by decide
/-- L2.4 -/
theorem test_frameRequestN_short :
    answer (.frameRequestN 3 0 [0x00, 0x00, 0x0A]) State.reset
      = some (.err, none, some ⟨.truncated, some ⟨3, 0x08, 0⟩⟩) := by decide
/-- L2.4: the excess byte is dropped -/
theorem test_frameCancel :
    answer (.frameCancel 3 0 [0xAA]) State.reset
      = some (.ok, some (.frame ⟨3, 0, .cancel⟩), none) := by decide
/-- L2.4 -/
theorem test_framePayload :
    answer (.framePayload 1 0x100 [0x00, 0x00, 0x00]) State.reset
      = some (.ok, some (.frame ⟨1, 0x0100, .payload (some []) none⟩), none) := by decide
/-- L2.4 -/
theorem test_frameError :
    answer (.frameError 0 0 [0x00, 0x00, 0x01, 0x02, 0x6F, 0x6B]) State.reset
      = some (.ok, some (.frame ⟨0, 0, .error 0x00000102 [0x6F, 0x6B]⟩), none) := by decide
/-- L2.4 -/
theorem test_frameMetadataPush :
    answer (.frameMetadataPush 0 0x100 [0x00, 0x00, 0x01, 0x78]) State.reset
      = some (.ok, some (.frame ⟨0, 0x0100, .metadataPush (some [0x78]) none⟩), none) := by decide
/-- L2.4 -/
theorem test_frameIllegal00 :
    answer (.frameIllegal00 1 0 []) State.reset
      = some (.err, none, some ⟨.illegalFrameType, some ⟨1, 0x00, 0⟩⟩) := by decide
/-- L2.4 -/
theorem test_frameIllegal0F :
    answer (.frameIllegal0F 1 0 []) State.reset
      = some (.err, none, some ⟨.illegalFrameType, some ⟨1, 0x0F, 0⟩⟩) := by decide
/-- R54 -/
theorem test_frameIllegal10 :
    answer (.frameIllegal10 0 1 0 []) State.reset
      = some (.err, none, some ⟨.illegalFrameType, some ⟨1, 0x10, 0⟩⟩) := by decide
/-- L2.4: IGNORE set, still reported -/
theorem test_frameIllegal20 :
    answer (.frameIllegal20 0x1F 1 0x200 []) State.reset
      = some (.err, none, some ⟨.illegalFrameType, some ⟨1, 0x3F, 0x200⟩⟩) := by decide
/-- L2.4: type code 0x0E is legal, and its body is the external unit's. -/
theorem test_frameResumeOk_asks_the_external_unit (v : ExtValue) (h : Config.extDecode .resumeOk 0 [] = .value v) :
    answer (.frameResumeOk 1 0 []) State.reset = some (.ok, some (.frame ⟨1, 0, .resumeOk v⟩), none) := by
  have : frameOutcome State.reset.params .resumeOk 1 0 [] = .ok (some (.frame ⟨1, 0, .resumeOk v⟩)) := by
    simp only [frameOutcome, decodeBody, decodeExtBody, show ((0 : BitVec 10).setWidth 16).setWidth 10 = 0 from rfl, h]
    rfl
  simp only [answer, exec, execFrameResumeOk, this]
  rfl

/-! ### The named bits and codes (R46, R76, R89) -/

theorem test_flag_names :
    flagNext.toNat = 2 ^ 5 ∧ flagComplete.toNat = 2 ^ 6 ∧ flagFollows.toNat = 2 ^ 7 ∧ flagMetadata.toNat = 2 ^ 8 ∧
      flagIgnore.toNat = 2 ^ 9 := by decide
theorem test_cause_codes :
    Cause.illegalFrameType.code = 1 ∧ Cause.lengthOverrun.code = 2 ∧ Cause.truncated.code = 3 := by decide
theorem test_error_names :
    ErrorName.rejectResume.code = 0x00000004 ∧ ErrorName.connectionClose.code = 0x00000102 ∧
      ErrorName.invalid.code = 0x00000204 := by decide

/-! ### Witnesses: for every obligation with hypotheses, concrete values that meet all of them together, clause by clause,
at the boundary of a range where there is one -/

theorem witness_ResetPutsEveryRegisterInItsResetValue :
    ({ building with port := [.reset], status := .fault, faulted := true } : State).port = .reset :: [] := rfl

theorem witness_StepRunsTheDecodedCommand :
    let r : Request := { code := 0x0E, operands := [.frame ⟨3, 0, .cancel⟩], out := some [0x01] }
    (issued [.command r]).port = .command r :: [] ∧ r.racedIn = false ∧ r.racedOut = false ∧
      decodeCommand r.code r.operands = .ok (.frmWrite ⟨3, 0, .cancel⟩) := ⟨rfl, rfl, rfl, rfl⟩

theorem witness_StepRefusesIllTypedOperands :
    (let r : Request := { code := 0x10, operands := [.kind .payload, .u32 1, .u16 0] };
      (issued [.command r]).port = .command r :: [] ∧
        decodeCommand r.code r.operands = .error (.badOperand "B_INIT")) ∧
    (let r : Request := { code := 0x02, operands := [.input [0], .u16 0], racedIn := true, racedOut := true };
      (issued [.command r]).port = .command r :: [] ∧
        decodeCommand r.code r.operands = .error (.badOperand "HDR_DEC")) := ⟨⟨rfl, rfl⟩, rfl, rfl⟩

theorem witness_StepWaitsOrTakesOneEvent :
    State.reset.port = [] ∧ (issued [.reset, .reset]).port = .reset :: [.reset] ∧
      ∃ t, step (issued [.reset, .reset]) = .next t := ⟨rfl, rfl, _, rfl⟩

/-- A raced command: IN is raced, OUT as said. -/
def racing (code : BitVec 5) (operands : List Operand) (racedOut : Bool) : Request :=
  { code, operands, racedIn := true, racedOut }

theorem witness_RacedBuffersHoldAnyBytes :
    let h := racing 0x02 [.input [1, 2, 3, 4, 5, 6]] false
    let p := racing 0x06 [.u16 0x0100, .input [0, 0, 0]] true
    let b := racing 0x09 [.kind .error, .u16 0, .input [0, 0, 0, 1]] true
    let f := racing 0x0C [.input []] false
    ((issued [.command h]).port = .command h :: [] ∧ h.racedIn = true ∧ h.code = 0x02#5 ∧
      h.operands = [.input [1, 2, 3, 4, 5, 6]]) ∧
    ((issued [.command p]).port = .command p :: [] ∧ p.racedIn = true ∧ p.racedOut = true ∧ p.code = 0x06#5 ∧
      p.operands = [.u16 0x0100, .input [0, 0, 0]]) ∧
    ((issued [.command b]).port = .command b :: [] ∧ b.racedIn = true ∧ b.racedOut = true ∧ b.code = 0x09#5 ∧
      b.operands = [.kind .error, .u16 0, .input [0, 0, 0, 1]]) ∧
    ((issued [.command f]).port = .command f :: [] ∧ f.racedIn = true ∧ f.code = 0x0C#5 ∧
      f.operands = [.input []]) :=
  ⟨⟨rfl, rfl, rfl, rfl⟩, ⟨rfl, rfl, rfl, rfl, rfl⟩, ⟨rfl, rfl, rfl, rfl, rfl⟩, rfl, rfl, rfl, rfl⟩

theorem witness_CommandsThatReadNoRacedByteRunAsDecoded :
    let w := racing 0x0E [.frame ⟨3, 0, .cancel⟩] true
    let d : Request := { code := 0x0C, operands := [.input [1]], racedOut := true }
    ((issued [.command w]).port = .command w :: [] ∧ (∀ b : Bytes, Operand.input b ∉ w.operands) ∧
      decodeCommand w.code w.operands = .ok (.frmWrite ⟨3, 0, .cancel⟩)) ∧
    ((issued [.command d]).port = .command d :: [] ∧ d.racedIn = false ∧
      decodeCommand d.code d.operands = .ok (.frmDec [1])) :=
  ⟨⟨rfl, fun _ h => (by simp [racing] at h), rfl⟩, rfl, rfl, rfl⟩

theorem witness_EveryWireFrameIsItsRowsEncoding :
    6 ≤ ([0x00, 0x00, 0x00, 0x01, 0xFE, 0x00] : Bytes).length ∧
      encode (.frameIllegal20 0x1F 1 0x200 []) = .frame [0x00, 0x00, 0x00, 0x01, 0xFE, 0x00] := ⟨by decide, rfl⟩

theorem witness_HdrDecSplitsTheFirstSixBytes :
    (Fits (under (some 5) false).params ([0, 0, 0, 7, 0x14] : Bytes).length ∧ ([0, 0, 0, 7, 0x14] : Bytes).length < 6) ∧
    Fits (under (some 7) false).params (6 + ([0x68] : Bytes).length) :=
  ⟨⟨fits_at_limit 5 false, by decide⟩, fits_at_limit 7 false⟩

theorem witness_HeaderDecodeAndEncodeAreInverse :
    Fits (under (some 6) false).params 6 ∧ ([0xFF, 0xFF, 0xFF, 0xFF, 0xFF, 0xFF] : Bytes).length = 6 :=
  ⟨fits_at_limit 6 false, rfl⟩

theorem witness_TypeOfReturnsTheKindsCode :
    (Body.requestStream (some 0) none none).typed (under none true).params = true ∧
      (Body.requestStream none none none).typed (under none false).params = true := ⟨rfl, rfl⟩

theorem witness_PlDecReadsThePayloadLayout :
    (0x0100#16).getLsbD 8 = true ∧ (0xFEFF#16).getLsbD 8 = false ∧
    (Fits (under (some 2) false).params ([0, 0] : Bytes).length ∧ ([0, 0] : Bytes).length < 3) ∧
    (Fits (under (some 5) false).params (3 + ([0x61, 0x62] : Bytes).length) ∧
      ([0x61, 0x62] : Bytes).length < (0 : Byte).toNat * 65536 + (0 : Byte).toNat * 256 + (3 : Byte).toNat) ∧
    (Fits (under (some 6) false).params (3 + ([0x61, 0x62] : Bytes).length + ([0x63] : Bytes).length) ∧
      ([0x61, 0x62] : Bytes).length = (0 : Byte).toNat * 65536 + (0 : Byte).toNat * 256 + (2 : Byte).toNat) ∧
    Fits (under (some 0) false).params ([] : Bytes).length :=
  ⟨by decide, by decide, ⟨fits_at_limit 2 false, by decide⟩, ⟨fits_at_limit 5 false, by decide⟩,
    ⟨fits_at_limit 6 false, by decide⟩, fits_at_limit 0 false⟩

theorem witness_PlEncAppendsThePayloadLayout :
    (Fits (under none false).params (Wire.payload (some edgeMetadata) none).length ∧
      MetadataFits (some edgeMetadata)) ∧
    (Fits (under none false).params (Wire.payload (some longMetadata) none).length ∧
      ¬ MetadataFits (some longMetadata)) :=
  ⟨⟨fits_no_limit _ false, fits_edgeMetadata⟩, fits_no_limit _ false, not_fits_longMetadata⟩

theorem witness_PlLenIsTheNumberOfBytesPlEncAppends :
    ∃ t u, exec (.plEnc (some []) none) State.reset = .next t ∧ t.status = .ok ∧
      exec (.plLen (some []) none) State.reset = .next u ∧ u.res = some (.natural 3) :=
  ⟨_, _, rfl, rfl, rfl, rfl⟩

theorem witness_SplitReturnsDataThenMetadata :
    (PayloadKind.requestChannel.body (some 5) (some []) none).typed (under none true).params = true ∧
      (Body.resume ⟨0⟩).kind.payload? = none := ⟨rfl, rfl⟩

theorem witness_PayloadLaws :
    (MetadataFits (some [0x6D]) ∧ Fits (under (some 5) false).params (Wire.payload (some [0x6D]) (some [0x61])).length ∧
      (under (some 5) false).params = (under (some 5) false).params ∧
      (0x0100#16).getLsbD 8 = (some ([0x6D] : Bytes)).isSome ∧ (some [0x61] : Option Bytes) ≠ some [] ∧
      (0x0000#16).getLsbD 8 = false) ∧
    (MetadataFits none ∧ Fits (under (some 0) false).params (Wire.payload none (some [])).length ∧
      (0x0000#16).getLsbD 8 = (none : Option Bytes).isSome ∧ (some [] : Option Bytes) = some [] ∧
      (0x0100#16).getLsbD 8 = true) :=
  ⟨⟨fits_short_metadata 0x6D, fits_at_limit 5 false, rfl, by decide, by decide, by decide⟩,
    fits_none_metadata, fits_at_limit 0 false, by decide, rfl, by decide⟩

theorem witness_BodyDecOfPlainAndFixedKinds :
    (PayloadKind.metadataPush.hasCount = false ∧
      ∃ u, exec (.plDec 0x0100 [0, 0, 1, 0x78]) State.reset = .next u ∧ u.res = some (.pair (some [0x78]) none)) ∧
    (∃ u, exec (.plDec 0x0100 [0, 0, 2, 0x78]) State.reset = .next u ∧ u.errrec = some ⟨.lengthOverrun, none⟩) ∧
    (Fits (under (some 2) false).params ([0xAA, 0xBB] : Bytes).length) ∧
    (Fits (under (some 3) false).params ([0, 0, 1] : Bytes).length ∧ ([0, 0, 1] : Bytes).length < 4) ∧
    Fits (under (some 4) false).params (4 + ([] : Bytes).length) :=
  ⟨⟨rfl, _, rfl, by decide⟩, ⟨_, rfl, by decide⟩, fits_at_limit 2 false, ⟨fits_at_limit 3 false, by decide⟩, fits_at_limit 4 false⟩

theorem witness_BodyDecOfRequestStreamAndChannel :
    PayloadKind.requestStream.hasCount = true ∧ (under (some 5) false).params.reqnPrefix = false ∧
    (under (some 5) true).params.reqnPrefix = true ∧
    (∃ u, exec (.plDec 0x0000 [0, 0, 0, 5, 0x61]) (under (some 5) false) = .next u ∧
      u.res = some (.pair none (some [0, 0, 0, 5, 0x61]))) ∧
    (∃ u, exec (.plDec 0x0100 [0, 0]) (under (some 5) false) = .next u ∧ u.errrec = some ⟨.truncated, none⟩) ∧
    (Fits (under (some 3) true).params ([0, 0, 5] : Bytes).length ∧ ([0, 0, 5] : Bytes).length < 4) ∧
    (Fits (under (some 5) true).params (4 + ([0x61] : Bytes).length) ∧
      ∃ u, exec (.plDec 0x0000 [0x61]) (under (some 5) true) = .next u ∧ u.res = some (.pair none (some [0x61]))) ∧
    (∃ u, exec (.plDec 0x0100 [0x61]) (under (some 5) true) = .next u ∧ u.errrec = some ⟨.truncated, none⟩) :=
  ⟨rfl, rfl, rfl, ⟨_, rfl, by decide⟩, ⟨_, rfl, by decide⟩, ⟨fits_at_limit 3 true, by decide⟩,
    ⟨fits_at_limit 5 true, _, rfl, by decide⟩, _, rfl, by decide⟩

theorem witness_BodyDecAsksTheExternalUnit : Fits (under (some 1) false).params ([0x00] : Bytes).length :=
  fits_at_limit 1 false

theorem witness_BodyEncAppendsTheBodysBytes :
    ((Body.requestStream (some 5) none none).typed (under (some 4) true).params = true ∧
      Fits (under (some 4) true).params (Wire.body (.requestStream (some 5) none none)).length ∧
      MetadataFits (Body.requestStream (some 5) none none).metadata) ∧
    ((Body.payload (some longMetadata) none).typed (under none false).params = true ∧
      Fits (under none false).params (Wire.body (.payload (some longMetadata) none)).length ∧
      ¬ MetadataFits (Body.payload (some longMetadata) none).metadata) :=
  ⟨⟨rfl, fits_at_limit 4 true, fits_none_metadata⟩, rfl, fits_no_limit _ false, not_fits_longMetadata⟩

theorem witness_BodyLenAnswersForEveryBody :
    (Body.payload (some longMetadata) none).typed (under (some 0) false).params = true := rfl

theorem witness_BodyLengthAndRoundTrip :
    (∃ t u, exec (.bodyEnc .cancel) State.reset = .next t ∧ t.status = .ok ∧
      exec (.bodyLen .cancel) State.reset = .next u ∧ u.res = some (.natural 0)) ∧
    ((Body.requestChannel (some 1) (some [0x6D]) none).typed (under (some 8) true).params = true ∧
      Fits (under (some 8) true).params (Wire.body (.requestChannel (some 1) (some [0x6D]) none)).length ∧
      (under (some 8) true).params = (under (some 8) true).params ∧
      (Body.requestChannel (some 1) (some [0x6D]) none).kind.isExternal = false ∧
      (Body.requestChannel (some 1) (some [0x6D]) none).RoundTrips 0x0100) :=
  ⟨⟨_, _, rfl, rfl, rfl, rfl⟩, rfl, fits_at_limit 8 true, rfl, rfl, by decide, by decide, fits_short_metadata 0x6D⟩

theorem witness_FrmDecRunsTheRowOfTheFrame :
    decodeFrame [0x00, 0x00, 0x00, 0x03, 0x24, 0x00] = .ok (.frameCancel 3 0 []) := rfl

theorem witness_FrmDecDecodesOneFrame :
    (Fits (under (some 5) false).params ([0, 0, 0, 1, 0x28] : Bytes).length ∧
      ([0, 0, 0, 1, 0x28] : Bytes).length < 6) ∧
    (Fits (under (some 6) false).params (6 + ([] : Bytes).length) ∧ kindOf ((0x3C : Byte).extractLsb' 2 6) = none) ∧
    (Kind.resumeOk.code = (0x38 : Byte).extractLsb' 2 6 ∧ Kind.cancel.code = (0x24 : Byte).extractLsb' 2 6 ∧
      ∃ u, exec (.bodyDec .cancel 0 []) (under (some 6) false) = .next u ∧ u.res = some (.body .cancel)) ∧
    (Kind.requestN.code = (0x20 : Byte).extractLsb' 2 6 ∧
      ∃ u, exec (.bodyDec .requestN 0 []) (under (some 6) false) = .next u ∧ u.errrec = some ⟨.truncated, none⟩) :=
  ⟨⟨fits_at_limit 5 false, by decide⟩, ⟨fits_at_limit 6 false, by decide⟩, ⟨by decide, by decide, _, rfl, rfl⟩,
    by decide, _, rfl, rfl⟩

theorem witness_FrameRowsDecodeTheBodyOfTheirKind :
    Fits (under (some 9) false).params (6 + ([0, 0, 1] : Bytes).length) ∧
    (∃ u, exec (.bodyDec .payload ((0x000 : BitVec 10).setWidth 16) [0, 0, 1]) (under (some 9) false) = .next u ∧
      u.res = some (.body (.payload none (some [0, 0, 1])))) ∧
    ∃ u, exec (.bodyDec .payload ((0x100 : BitVec 10).setWidth 16) [0, 0, 1]) (under (some 9) false) = .next u ∧
      u.errrec = some ⟨.lengthOverrun, none⟩ :=
  ⟨fits_at_limit 9 false, ⟨_, rfl, rfl⟩, _, rfl, rfl⟩

theorem witness_PlainPayloadFramesDecode :
    ((0x2FF#10).getLsbD 8 = false ∧ Fits (under (some 6) false).params (6 + ([] : Bytes).length)) ∧
    ((0x100#10).getLsbD 8 = true ∧ edgeMetadata.length ≤ 0xFFFFFF ∧
      Fits (under none false).params (9 + edgeMetadata.length + ([0x61] : Bytes).length)) :=
  ⟨⟨by decide, fits_at_limit 6 false⟩, by decide, fits_edgeMetadata _ rfl, fits_no_limit _ false⟩

theorem witness_StreamAndChannelFramesDecode :
    ((none : Option (BitVec 32)).isSome = (under (some 7) false).params.reqnPrefix ∧
      (0x0FF#10).getLsbD 8 = (none : Option Bytes).isSome ∧ MetadataFits none ∧ some [0x61] ≠ some ([] : Bytes) ∧
      Fits (under (some 7) false).params (6 + (Wire.count none ++ Wire.payload none (some [0x61])).length)) ∧
    (some (5 : BitVec 32)).isSome = (under (some 14) true).params.reqnPrefix ∧
      (0x100#10).getLsbD 8 = (some ([0x6D] : Bytes)).isSome ∧ MetadataFits (some [0x6D]) ∧
      (none : Option Bytes) ≠ some [] ∧
      Fits (under (some 14) true).params (6 + (Wire.count (some 5) ++ Wire.payload (some [0x6D]) none).length) :=
  ⟨⟨rfl, by decide, fits_none_metadata, by decide, fits_at_limit 7 false⟩,
    rfl, by decide, fits_short_metadata 0x6D, by decide, fits_at_limit 14 true⟩

theorem witness_CancelRequestNAndErrorFramesDecode :
    Fits (under (some 6) false).params (6 + ([] : Bytes).length) ∧
    Fits (under (some 10) false).params (10 + ([] : Bytes).length) ∧
    (Fits (under (some 9) false).params (6 + ([0, 0, 0] : Bytes).length) ∧ ([0, 0, 0] : Bytes).length < 4) :=
  ⟨fits_at_limit 6 false, fits_at_limit 10 false, fits_at_limit 9 false, by decide⟩

theorem witness_ExternalFramesEndAsTheExternalUnitSays :
    Fits (under (some 6) false).params (6 + ([] : Bytes).length) := fits_at_limit 6 false

theorem witness_IllegalFrameRowsReportTheirHeader :
    Fits (under (some 7) false).params (6 + ([0x00] : Bytes).length) := fits_at_limit 7 false

theorem witness_IllegalFrameTypeExactlyOnCodesWithoutAKind :
    (Fits (under (some 6) false).params (6 + ([] : Bytes).length) ∧
      ((0x03 : Byte).toNat / 4 = 0 ∨ 0x0F ≤ (0x03 : Byte).toNat / 4) ∧
      ((0x3C : Byte).toNat / 4 = 0 ∨ 0x0F ≤ (0x3C : Byte).toNat / 4) ∧
      ¬ ((0x3B : Byte).toNat / 4 = 0 ∨ 0x0F ≤ (0x3B : Byte).toNat / 4)) ∧
    (decodeCommand 0x0C [.input [0, 0, 0, 1, 0x3C, 0]] = .ok (.frmDec [0, 0, 0, 1, 0x3C, 0]) ∧
      ∃ t, exec (.frmDec [0, 0, 0, 1, 0x3C, 0]) State.reset = .next t ∧
        t.outcome = some (.err ⟨.illegalFrameType, some ⟨1, 0x0F, 0⟩⟩)) :=
  ⟨⟨fits_at_limit 6 false, by decide, by decide, by decide⟩, rfl, _, rfl, rfl⟩

theorem witness_FrmWriteAppendsTheFrame :
    ((⟨3, 0, .cancel⟩ : Frame).body.typed (under (some 6) false).params = true ∧
      Fits (under (some 6) false).params (Wire.frame ⟨3, 0, .cancel⟩).length ∧
      MetadataFits (⟨3, 0, .cancel⟩ : Frame).body.metadata) ∧
    ((⟨1, 0, .payload (some longMetadata) none⟩ : Frame).body.typed (under none false).params = true ∧
      Fits (under none false).params (Wire.frame ⟨1, 0, .payload (some longMetadata) none⟩).length ∧
      ¬ MetadataFits (⟨1, 0, .payload (some longMetadata) none⟩ : Frame).body.metadata) :=
  ⟨⟨rfl, fits_at_limit 6 false, fits_none_metadata⟩, rfl, fits_no_limit _ false, not_fits_longMetadata⟩

theorem witness_FrmEncIsFrmWriteToAnEmptyBuffer :
    (∃ t, exec (.frmWrite ⟨3, 0, .cancel⟩) { State.reset with out := [] } = .next t ∧ t.status = .ok) ∧
    ∃ t, exec (.frmWrite ⟨3, 0, .cancel⟩) { under (some 5) false with out := [] } = .next t ∧ t.status ≠ .ok :=
  ⟨⟨_, rfl, rfl⟩, _, rfl, by decide⟩

theorem witness_FrmEncReturnsTheFramesBytes :
    (⟨1, 0xFC20, .payload none (some [0x61])⟩ : Frame).body.typed (under (some 7) false).params = true ∧
      Fits (under (some 7) false).params (Wire.frame ⟨1, 0xFC20, .payload none (some [0x61])⟩).length ∧
      MetadataFits (⟨1, 0xFC20, .payload none (some [0x61])⟩ : Frame).body.metadata :=
  ⟨rfl, fits_at_limit 7 false, fits_none_metadata⟩

theorem witness_FrmLenIsSixMoreThanBodyLen :
    (⟨1, 0, .payload (some longMetadata) none⟩ : Frame).body.typed (under none false).params = true ∧
    ∃ t u, exec (.frmWrite ⟨3, 0, .requestN 10⟩) State.reset = .next t ∧ t.status = .ok ∧
      exec (.frmLen ⟨3, 0, .requestN 10⟩) State.reset = .next u ∧ u.res = some (.natural 10) :=
  ⟨rfl, _, _, rfl, rfl, rfl, rfl⟩

theorem witness_CanonicalFramesRoundTrip :
    (⟨7, 0x03FF, .requestFnf (some [0x6D]) (some [0x68])⟩ : Frame).Canonical ∧
      (⟨7, 0x03FF, .requestFnf (some [0x6D]) (some [0x68])⟩ : Frame).body.typed (under (some 11) false).params = true ∧
      Fits (under (some 11) false).params (Wire.frame ⟨7, 0x03FF, .requestFnf (some [0x6D]) (some [0x68])⟩).length ∧
      (under (some 11) false).params = (under (some 11) false).params :=
  ⟨⟨by decide, ⟨by decide, by decide, fits_short_metadata 0x6D⟩, rfl⟩, rfl, fits_at_limit 11 false, rfl⟩

theorem witness_AcceptedBytesReencode :
    (∃ t, exec (.frmDec [0, 0, 0, 1, 0x28, 0x60, 0x61]) State.reset = .next t ∧
      t.res = some (.frame ⟨1, 0x0060, .payload none (some [0x61])⟩)) ∧
    (Body.payload none (some [0x61])).kind.payload?.isSome = true ∧
    (∃ t, exec (.frmDec [0, 0, 0, 0, 0x2C, 0, 0, 0, 1, 2]) State.reset = .next t ∧
      t.res = some (.frame ⟨0, 0, .error 0x00000102 []⟩)) ∧
    (∃ t, exec (.frmDec [0, 0, 0, 3, 0x24, 0, 0xAA]) State.reset = .next t ∧
      t.res = some (.frame ⟨3, 0, .cancel⟩)) ∧
    ∃ t, exec (.frmDec [0, 0, 0, 3, 0x20, 0, 0, 0, 0, 0x0A, 0xFF]) State.reset = .next t ∧
      t.res = some (.frame ⟨3, 0, .requestN 10⟩) :=
  ⟨⟨_, rfl, rfl⟩, rfl, ⟨_, rfl, rfl⟩, ⟨_, rfl, rfl⟩, _, rfl, rfl⟩

theorem witness_BytesAfterAFrameBecomeDataOrMessage :
    (∃ t, exec (.frmDec [0, 0, 0, 1, 0x28, 0]) (under (some 7) false) = .next t ∧
      t.res = some (.frame ⟨1, 0, PayloadKind.payload.body none none none⟩) ∧
      Fits (under (some 7) false).params (([0, 0, 0, 1, 0x28, 0] : Bytes) ++ [0x61]).length) ∧
    ∃ t, exec (.frmDec [0, 0, 0, 0, 0x2C, 0, 0, 0, 1, 2]) (under (some 11) false) = .next t ∧
      t.res = some (.frame ⟨0, 0, .error 0x00000102 []⟩) ∧
      Fits (under (some 11) false).params (([0, 0, 0, 0, 0x2C, 0, 0, 0, 1, 2] : Bytes) ++ [0x61]).length :=
  ⟨⟨_, rfl, rfl, fits_at_limit 7 false⟩, _, rfl, rfl, fits_at_limit 11 false⟩

theorem witness_BInitOpensABuilder :
    Kind.error.payload? = none ∧ building.bldValid = true ∧ State.reset.bldValid = false ∧
      (under none true).bldValid = false ∧ (under none true).params.reqnPrefix = true := ⟨rfl, rfl, rfl, rfl, rfl⟩

theorem witness_SettersUpdateFieldAndFlagTogether :
    building.bldValid = true ∧ State.reset.bldValid = false ∧
    building.bldFlag.getLsbD 8 = true ∧
    ∃ t, exec (.bSetAll none none) building = .next t ∧ t.bldFlag.getLsbD 8 = false :=
  ⟨rfl, rfl, by decide, _, rfl, by decide⟩

theorem witness_BBuildReturnsTheFrameAndCloses :
    building.bldValid = true ∧ buildingStream.bldValid = true ∧ State.reset.bldValid = false := ⟨rfl, rfl, rfl⟩

theorem witness_BuilderInvariantIsKept :
    (building.BuilderConsistent ∧
      ∃ t, step { building with port := [.command { code := 0x11, operands := [.bytes []] }] } = .next t) ∧
    (buildingStream.BuilderConsistent ∧
      (∃ t, exec .bBuild buildingStream = .next t ∧
        t.res = some (.frame ⟨9, 0x0020, .requestStream (some 5) none none⟩)) ∧
      buildingStream.bldFlag.toNat < 1024 ∧ buildingStream.bldData ≠ some [] ∧ MetadataFits buildingStream.bldMd) :=
  ⟨⟨by decide, _, rfl⟩, by decide, ⟨_, rfl, rfl⟩, by decide, by decide, fits_none_metadata⟩

theorem witness_StatusInvariantIsKept :
    State.reset.StatusConsistent ∧ ∃ t, step State.reset = .next t :=
  ⟨⟨by decide, by decide, by decide, by decide, by decide⟩, _, rfl⟩

theorem witness_ACommandThatDoesNotEndOkChangesOnlyItsStatus :
    ∃ t, exec .bBuild State.reset = .next t ∧ t.status ≠ .ok := ⟨_, rfl, by decide⟩

theorem witness_OnlyDecodingEndsWithAPreciseError :
    ∃ t, exec (.hdrDec []) State.reset = .next t ∧ t.status = .err := ⟨_, rfl, rfl⟩

theorem witness_FaultExactlyOnOversizeMetadata :
    ∃ t, exec (.plEnc (some longMetadata) none) State.reset = .next t ∧ t.status = .fault := by
  refine ⟨_, rfl, ?_⟩
  rw [emitToOut_of_oversize rfl (by simp [payloadEmission, oversizeMetadata, length_longMetadata])]

theorem witness_RefusalsExactlyInTheirOrder :
    (∃ t, exec (.cmdReserved18 7) State.reset = .next t ∧ t.outcome = some (.refuse .reservedCommand)) ∧
    (∃ t, exec (.bInit .cancel 1 0 0) building = .next t ∧ t.outcome = some (.refuse .badOperand)) ∧
    (∃ t, exec (.bodyEnc (.requestStream none none none)) (under none true) = .next t ∧
      t.outcome = some (.refuse .badOperand)) ∧
    (∃ t, exec (.frmDec [0]) (under (some 0) false) = .next t ∧ t.outcome = some (.refuse .bufferTooLarge)) ∧
    (∃ t, exec (.frmEnc ⟨3, 0, .cancel⟩) (under (some 5) false) = .next t ∧
      t.outcome = some (.refuse .bufferTooLarge)) ∧
    (∃ t, exec (.bInit .payload 1 0 0) building = .next t ∧ t.outcome = some (.refuse .builderBusy)) ∧
    ∃ t, exec .bBuild State.reset = .next t ∧ t.outcome = some (.refuse .noBuilder) :=
  ⟨⟨_, rfl, rfl⟩, ⟨_, rfl, rfl⟩, ⟨_, rfl, rfl⟩, ⟨_, rfl, rfl⟩, ⟨_, rfl, rfl⟩, ⟨_, rfl, rfl⟩, _, rfl, rfl⟩

theorem witness_ReservedCommandsAreRefused :
    ((0x00 : BitVec 5) = 0 ∨ 0x16 ≤ (0x00 : BitVec 5).toNat) ∧ ((0x16 : BitVec 5) = 0 ∨ 0x16 ≤ (0x16 : BitVec 5).toNat) ∧
      ¬ ((0x15 : BitVec 5) = 0 ∨ 0x16 ≤ (0x15 : BitVec 5).toNat) := by decide

theorem witness_StickyMarksStayUntilReset :
    (∃ t, step { State.reset with faulted := true, refused := true } = .next t) ∧
    (∀ rest, ({ State.reset with faulted := true, refused := true } : State).port ≠ .reset :: rest) ∧
    ∃ t, step (issued [.command { code := 0x14, operands := [] }]) = .next t ∧
      (issued [.command { code := 0x14, operands := [] }]).refused = false ∧ t.refused = true :=
  ⟨⟨_, rfl⟩, fun _ h => (nomatch h), _, rfl, rfl, rfl⟩

theorem witness_OnlyBuilderCommandsWriteTheBuilder :
    ∃ t, exec (.frmDec []) building = .next t ∧ (Instr.frmDec []).family ≠ .building := ⟨_, rfl, by decide⟩

theorem witness_OutIsAppendOnly :
    ∃ t, exec (.frmWrite ⟨3, 0, .cancel⟩) { State.reset with out := [0x01] } = .next t ∧
      0 < ({ State.reset with out := [0x01] } : State).out.length ∧
      ({ State.reset with out := [0x01] } : State).out.length < t.out.length ∧
      (Instr.frmWrite ⟨3, 0, .cancel⟩).family = .toOut ∧ t.status = .ok :=
  ⟨_, rfl, by decide, by decide, rfl, rfl⟩

theorem witness_OutcomeDependsOnlyOnOperandsBuilderAndParameters :
    let u : State := { building with status := .err, out := [0x01], faulted := true }
    building.params = u.params ∧ building.bldValid = u.bldValid ∧ building.bldKind = u.bldKind ∧
      building.bldSid = u.bldSid ∧ building.bldFlag = u.bldFlag ∧ building.bldMd = u.bldMd ∧
      building.bldData = u.bldData ∧ building.bldInitn = u.bldInitn := ⟨rfl, rfl, rfl, rfl, rfl, rfl, rfl, rfl⟩

end Sys2Proof.Tests
end

section
/-! PROOF. The scope statements (00_scope.md R13; 60_exceptions.md R95): no state is stuck, every instruction records one
outcome, and an outcome other than OK changes nothing but the status registers. -/

namespace Sys2Proof.Machine

/-! ### Every instruction ends in `respond` -/

/-- Every instruction ends by recording one outcome. The state it records it in has the old sticky marks, and only an OK
may have changed that state. -/
theorem exec_eq_respond (i : Instr) (s : State) :
    ∃ o u, exec i s = .next (respond o u) ∧ u.faulted = s.faulted ∧ u.refused = s.refused ∧
      ((∃ v, o = .ok v) ∨ u = s) := by
  rcases exec_cases i s with ⟨o, hexec, -⟩ | ⟨e, -, -, -, hexec⟩ |
      ⟨-, u, v, hexec, -, -, -, -, hfaulted, hrefused, -⟩
  · exact ⟨o, s, hexec, rfl, rfl, .inr rfl⟩
  · exact ⟨.ok none, appendOut e.bytes s, hexec, rfl, rfl, .inl ⟨none, rfl⟩⟩
  · exact ⟨.ok v, u, hexec, hfaulted, hrefused, .inl ⟨v, rfl⟩⟩

/-- An outcome other than OK leaves RES empty and touches nothing but the status registers and marks. -/
theorem respond_eq_of_status_ne_ok {o : CmdOutcome} {s : State} (h : (respond o s).status ≠ .ok) :
    respond o s =
      { s with
        status := (respond o s).status, res := none, errrec := (respond o s).errrec
        faulted := (respond o s).faulted, refused := (respond o s).refused, outcome := (respond o s).outcome } := by
  cases o with
  | ok v => exact absurd (respond_ok_status s v) h
  | err e => rfl
  | fault f => rfl
  | refuse r => rfl

/-! ### Every step has a next state -/

theorem exec_eq_next (i : Instr) (s : State) : ∃ t, exec i s = .next t := by
  obtain ⟨o, u, hexec, -⟩ := exec_eq_respond i s
  exact ⟨respond o u, hexec⟩

theorem runCommand_eq_next (r : Request) (rest : List Event) (s : State) : ∃ t, runCommand r rest s = .next t := by
  unfold runCommand
  split
  · exact exec_eq_next _ _
  · exact ⟨_, rfl⟩

/-! ### The obligations -/

/-- Settles O6: a step waits, resets, or runs a command, and a command always has a next state. -/
theorem everyStepEndsInANextState : Obligations.EveryStepEndsInANextState := by
  intro s
  match hport : s.port with
  | [] => exact ⟨s, step_idle s hport⟩
  | .reset :: rest => exact ⟨_, step_reset s rest hport⟩
  | .command r :: rest =>
    obtain ⟨t, hrun⟩ := runCommand_eq_next r rest s
    exact ⟨s.settling r t, by rw [step_command s r rest hport, hrun, settleOut_next]⟩

/-- Settles O49: every instruction ends in `respond`, which records each of the four outcomes as R26 to R28 say. -/
theorem everyCommandRecordsOneOutcome : Obligations.EveryCommandRecordsOneOutcome := by
  intro i s
  obtain ⟨o, u, hexec, hfaulted, hrefused, -⟩ := exec_eq_respond i s
  refine ⟨o, respond o u, hexec, respond_outcome u o, ?_⟩
  cases o with
  | ok v => exact ⟨rfl, rfl, rfl, hfaulted, hrefused⟩
  | err e => exact ⟨rfl, rfl, rfl, hfaulted, hrefused⟩
  | fault f => exact ⟨rfl, rfl, rfl, rfl, hrefused⟩
  | refuse r => exact ⟨rfl, rfl, rfl, hfaulted, rfl⟩

/-- Settles O50: without an OK the outcome is recorded in the state the command started from. -/
theorem aCommandThatDoesNotEndOkChangesOnlyItsStatus :
    Obligations.ACommandThatDoesNotEndOkChangesOnlyItsStatus := by
  intro i s t hexec hstatus
  obtain ⟨o, u, hrespond, -, -, hchange⟩ := exec_eq_respond i s
  obtain rfl : respond o u = t := Host.Outcome.next.inj (hrespond.symm.trans hexec)
  rcases hchange with ⟨v, rfl⟩ | rfl
  · exact absurd (respond_ok_status u v) hstatus
  · exact respond_eq_of_status_ne_ok hstatus

end Sys2Proof.Machine
end

section
/-! PROOF. The registers (10_state.md): the type codes of the kinds (R14), which instructions write which registers (R25),
the agreement of the status registers and the sticky marks (R26 to R28), and what an outcome depends on (R29). -/

namespace Sys2Proof.Machine

/-! ### The status registers -/

/-- Whatever the state before it, ending a command makes the status registers agree. -/
theorem statusConsistent_respond (o : CmdOutcome) (s : State) : (respond o s).StatusConsistent := by
  constructor <;> cases o <;> simp

theorem statusConsistent_resetRegisters (s : State) : (resetRegisters s).StatusConsistent := by
  constructor <;> simp

/-- The agreement is about the status registers alone: the output buffer has no part in it. -/
theorem State.StatusConsistent.of_out {s : State} (h : s.StatusConsistent) (b : Bytes) :
    { s with out := b }.StatusConsistent := by
  obtain ⟨hres, herrrec, hfault, hrefuse, hidle⟩ := h
  exact ⟨hres, herrrec, hfault, hrefuse, hidle⟩

/-- What a step does to the status registers: nothing, reset them, or record one outcome on top of the old sticky marks. -/
theorem step_status_cases {s t : State} (h : step s = .next t) :
    t = s ∨
    (∃ rest, s.port = .reset :: rest ∧ t = resetRegisters { s with port := rest }) ∨
    ∃ o u b, t = { respond o u with out := b } ∧ u.faulted = s.faulted ∧ u.refused = s.refused := by
  rcases step_cases h with ⟨-, rfl⟩ | hreset | ⟨r, rest, u, b, -, rfl, -, -, hrun⟩
  · exact .inl rfl
  · exact .inr (.inl hreset)
  · refine .inr (.inr ?_)
    rcases hrun with ⟨i, -, hexec⟩ | ⟨-, rfl⟩
    · obtain ⟨o, w, hrespond, hfaulted, hrefused, -⟩ := exec_eq_respond i (acceptRequest r rest s)
      obtain rfl : respond o w = u := Host.Outcome.next.inj (hrespond.symm.trans hexec)
      exact ⟨o, w, b, rfl, hfaulted, hrefused⟩
    · exact ⟨_, acceptRequest r rest s, b, rfl, rfl, rfl⟩

/-- Only a fault sets FAULTED. -/
theorem respond_status_of_faulted {o : CmdOutcome} {s : State} (hclear : s.faulted = false)
    (hset : (respond o s).faulted = true) : (respond o s).status = .fault := by
  cases o with
  | fault f => rfl
  | ok | err | refuse => simp [hclear] at hset

/-- Only a refusal sets REFUSED. -/
theorem respond_status_of_refused {o : CmdOutcome} {s : State} (hclear : s.refused = false)
    (hset : (respond o s).refused = true) : (respond o s).status = .refuse := by
  cases o with
  | refuse r => rfl
  | ok | err | fault => simp [hclear] at hset

/-! ### What an outcome depends on

The operands are the instruction's; `SameInputs` says that two states agree on the rest of what R29 lets an outcome
depend on, and `AnswerAlike` is what a meaning then does on both. There is one rule per shared operation. -/

/-- Two states agree on the parameters and the builder registers (R29). -/
structure SameInputs (s u : State) : Prop where
  params : s.params = u.params
  bldValid : s.bldValid = u.bldValid
  bldKind : s.bldKind = u.bldKind
  bldSid : s.bldSid = u.bldSid
  bldFlag : s.bldFlag = u.bldFlag
  bldMd : s.bldMd = u.bldMd
  bldData : s.bldData = u.bldData
  bldInitn : s.bldInitn = u.bldInitn

/-- The commands that `a` and `b` end, started on `s` and `u`, record one outcome and append the same bytes to OUT. -/
def AnswerAlike (s u : State) (a b : Host.Outcome State Fault Refusal) : Prop :=
  ∃ o w v e, a = .next (respond o w) ∧ b = .next (respond o v) ∧ w.out = s.out ++ e ∧ v.out = u.out ++ e

section
variable {s u : State}

/-- Commands that leave OUT alone answer alike when their outcomes are equal. -/
theorem answerAlike_respond {o o' : CmdOutcome} {w v : State} (ho : o = o') (hw : w.out = s.out) (hv : v.out = u.out) :
    AnswerAlike s u (.next (respond o w)) (.next (respond o' v)) :=
  ⟨o, w, v, [], rfl, by rw [ho], by simp [hw], by simp [hv]⟩

theorem answerAlike_emitToOut (h : SameInputs s u) (e : Emission) :
    AnswerAlike s u (.next (emitToOut e s)) (.next (emitToOut e u)) := by
  unfold emitToOut
  rw [h.params]
  cases emissionStop u.params e with
  | some o => exact answerAlike_respond rfl rfl rfl
  | none => exact ⟨.ok none, appendOut e.bytes s, appendOut e.bytes u, e.bytes, rfl, rfl, rfl, rfl⟩

theorem answerAlike_emitToRes (h : SameInputs s u) (e : Emission) :
    AnswerAlike s u (.next (emitToRes e s)) (.next (emitToRes e u)) := by
  unfold emitToRes
  rw [h.params]
  cases emissionStop u.params e with
  | some o => exact answerAlike_respond rfl rfl rfl
  | none => exact answerAlike_respond rfl rfl rfl

theorem answerAlike_withTypedBody (h : SameInputs s u) (b : Body) {k : State → State}
    (hk : AnswerAlike s u (.next (k s)) (.next (k u))) :
    AnswerAlike s u (.next (withTypedBody b s k)) (.next (withTypedBody b u k)) := by
  unfold withTypedBody
  rw [h.params]
  split
  · exact hk
  · exact answerAlike_respond rfl rfl rfl

theorem answerAlike_withBuilder (h : SameInputs s u) {k : State → State}
    (hk : AnswerAlike s u (.next (k s)) (.next (k u))) :
    AnswerAlike s u (.next (withBuilder s k)) (.next (withBuilder u k)) := by
  unfold withBuilder
  rw [h.bldValid]
  split
  · exact hk
  · exact answerAlike_respond rfl rfl rfl

theorem builtFrame_congr (h : SameInputs s u) : builtFrame s = builtFrame u := by
  simp only [builtFrame, h.params, h.bldKind, h.bldSid, h.bldFlag, h.bldMd, h.bldData, h.bldInitn]

theorem answerAlike_execBInit (h : SameInputs s u) (kind : Kind) (sid : BitVec 32) (flag : BitVec 16)
    (initn : BitVec 32) : AnswerAlike s u (execBInit kind sid flag initn s) (execBInit kind sid flag initn u) := by
  unfold execBInit
  rw [h.bldValid]
  cases kind.payload? with
  | none => exact answerAlike_respond rfl rfl rfl
  | some k =>
    dsimp only
    split
    · exact answerAlike_respond rfl rfl rfl
    · exact answerAlike_respond rfl rfl rfl

/-- The row of a kind ends with that kind's frame outcome. -/
theorem exec_frameOfKind (k : Kind) (sid : BitVec 32) (flags : BitVec 10) (body : Bytes) (s : State) :
    exec (frameOfKind k sid flags body) s = .next (respond (frameOutcome s.params k sid flags body) s) := by
  cases k <;> rfl

/-- The row of a type code that names no kind ends with the illegal outcome of one type code, on every state. -/
theorem exec_frameOfIllegal (t : BitVec 6) (sid : BitVec 32) (flags : BitVec 10) (body : Bytes) :
    ∃ type, ∀ s, exec (frameOfIllegal t sid flags body) s =
      .next (respond (illegalOutcome s.params type sid flags body) s) := by
  unfold frameOfIllegal
  split_ifs
  · exact ⟨0x00#6, fun _ => rfl⟩
  · exact ⟨0x0F#6, fun _ => rfl⟩
  · exact ⟨0b01#2 ++ t.setWidth 4, fun _ => rfl⟩
  · exact ⟨0b1#1 ++ t.setWidth 5, fun _ => rfl⟩

theorem answerAlike_dispatchFrame (h : SameInputs s u) (hdr : Header) (body : Bytes) :
    AnswerAlike s u (dispatchFrame hdr body s) (dispatchFrame hdr body u) := by
  rw [dispatchFrame_eq_exec, dispatchFrame_eq_exec]
  cases kindOf hdr.type with
  | some k =>
    simp only [exec_frameOfKind]
    exact answerAlike_respond (by rw [h.params]) rfl rfl
  | none =>
    obtain ⟨type, hexec⟩ := exec_frameOfIllegal hdr.type hdr.streamId hdr.flag body
    simp only [hexec]
    exact answerAlike_respond (by rw [h.params]) rfl rfl

theorem answerAlike_execFrmDec (h : SameInputs s u) (inp : Bytes) :
    AnswerAlike s u (execFrmDec inp s) (execFrmDec inp u) := by
  unfold execFrmDec
  rw [h.params]
  split_ifs
  · exact answerAlike_respond rfl rfl rfl
  · exact answerAlike_respond rfl rfl rfl
  · exact answerAlike_dispatchFrame h _ _

/-- Every instruction answers alike on states that agree on the parameters and the builder registers. -/
theorem exec_answerAlike (h : SameInputs s u) (i : Instr) : AnswerAlike s u (exec i s) (exec i u) := by
  cases i
  case frmDec inp => exact answerAlike_execFrmDec h inp
  case plEnc md data => exact answerAlike_emitToOut h _
  case bodyEnc b => exact answerAlike_withTypedBody h b (answerAlike_emitToOut h _)
  case frmWrite f => exact answerAlike_withTypedBody h f.body (answerAlike_emitToOut h _)
  case frmEnc f => exact answerAlike_withTypedBody h f.body (answerAlike_emitToRes h _)
  case typeOf b | bodyLen b | split b => exact answerAlike_withTypedBody h b (answerAlike_respond rfl rfl rfl)
  case frmLen f => exact answerAlike_withTypedBody h f.body (answerAlike_respond rfl rfl rfl)
  case bInit kind sid flag initn => exact answerAlike_execBInit h kind sid flag initn
  case bSetMd m => exact answerAlike_withBuilder h (answerAlike_respond rfl rfl rfl)
  case bSetData d => exact answerAlike_withBuilder h (answerAlike_respond rfl rfl rfl)
  case bSetAll data md =>
    exact answerAlike_withBuilder h (answerAlike_respond rfl (putMetadata_out s md) (putMetadata_out u md))
  case bBuild => exact answerAlike_withBuilder h (answerAlike_respond (by rw [builtFrame_congr h]) rfl rfl)
  case hdrEnc | hasNext | hasComplete | plLen | cmdReserved00 | cmdReserved16 | cmdReserved18 =>
    exact answerAlike_respond rfl rfl rfl
  -- what is left decodes its operand under the parameters: HDR_DEC, PL_DEC, BODY_DEC and the frame rows
  all_goals exact answerAlike_respond (by rw [h.params]) rfl rfl

end

/-- What one outcome puts into the status registers does not depend on the state it is recorded in. -/
theorem respond_registers_eq (o : CmdOutcome) (w v : State) :
    (respond o w).status = (respond o v).status ∧ (respond o w).res = (respond o v).res ∧
      (respond o w).errrec = (respond o v).errrec := by
  cases o <;> exact ⟨rfl, rfl, rfl⟩

/-! ### The obligations -/

/-- Settles O48: a step leaves the status registers alone, resets them, or ends a command, which makes them agree. -/
theorem statusInvariantIsKept : Obligations.StatusInvariantIsKept := by
  intro s t hs hstep
  rcases step_status_cases hstep with rfl | ⟨rest, -, rfl⟩ | ⟨o, u, b, rfl, -, -⟩
  · exact hs
  · exact statusConsistent_resetRegisters _
  · exact (statusConsistent_respond o u).of_out b

/-- Settles O55: without a reset a step waits or records one outcome on top of the old marks. -/
theorem stickyMarksStayUntilReset : Obligations.StickyMarksStayUntilReset := by
  intro s t hstep hport
  rcases step_status_cases hstep with rfl | ⟨rest, hreset, -⟩ | ⟨o, u, b, rfl, hfaulted, hrefused⟩
  · exact ⟨id, id, fun hclear hset => by simp [hclear] at hset, fun hclear hset => by simp [hclear] at hset⟩
  · exact absurd hreset (hport rest)
  · rw [← hfaulted, ← hrefused]
    exact ⟨respond_faulted_of_faulted o u, respond_refused_of_refused o u, respond_status_of_faulted,
      respond_status_of_refused⟩

/-- Settles O56: outside the builder commands an instruction ends in `respond`, on the state it started from or with bytes
appended to OUT; a builder command keeps the parameters, the port and the race counter. -/
theorem onlyBuilderCommandsWriteTheBuilder : Obligations.OnlyBuilderCommandsWriteTheBuilder := by
  intro i s t hexec
  rcases exec_cases i s with ⟨o, hrespond, -⟩ | ⟨e, -, -, -, hrespond⟩ |
      ⟨hbuilding, u, v, hrespond, hparams, -, hport, hraces, -⟩
  · obtain rfl := Host.Outcome.next.inj (hrespond.symm.trans hexec)
    simp
  · obtain rfl := Host.Outcome.next.inj (hrespond.symm.trans hexec)
    simp
  · obtain rfl := Host.Outcome.next.inj (hrespond.symm.trans hexec)
    exact ⟨fun hfamily => absurd hbuilding hfamily, by simp [hparams], by simp [hport], by simp [hraces]⟩

/-- Settles O58: the two runs record one outcome, which fixes the status registers, and append the same bytes. -/
theorem outcomeDependsOnlyOnOperandsBuilderAndParameters :
    Obligations.OutcomeDependsOnlyOnOperandsBuilderAndParameters := by
  intro i s u hparams hvalid hkind hsid hflag hmd hdata hinitn
  obtain ⟨o, w, v, e, hs, hu, hw, hv⟩ :=
    exec_answerAlike ⟨hparams, hvalid, hkind, hsid, hflag, hmd, hdata, hinitn⟩ i
  obtain ⟨hstatus, hres, herrrec⟩ := respond_registers_eq o w v
  exact ⟨respond o w, respond o v, e, hs, hu, by simp, hstatus, hres, herrrec, by simp [hw], by simp [hv]⟩

/-- Settles O10: the codes are the table's, `kindOf` inverts `Kind.code`, and the codes it misses are counted off. -/
theorem typeCodesNameTheFourteenKinds : Obligations.TypeCodesNameTheFourteenKinds := by
  refine ⟨by decide, fun t k => ⟨code_kindOf t k, ?_⟩, by decide⟩
  rintro rfl
  exact kindOf_code k

/-- Settles O47: reset closes the builder and empties the status registers. -/
theorem resetMeetsTheInvariants : Obligations.ResetMeetsTheInvariants :=
  ⟨by decide, statusConsistent_resetRegisters State.reset, rfl, rfl⟩

end Sys2Proof.Machine
end

section
/-! PROOF. Memory (20_memory.md): a step takes the oldest event and runs the command it decodes to (R41), OUT only grows and
only by what an encoding command appends (R37, R38), and what a race changes (R42). -/

namespace Sys2Proof.Machine

/-! ### The command at the head of the port -/

theorem seenOperands_of_raced (r : Request) (s : State) (h : r.racedIn = true) :
    seenOperands r s = r.operands.map (seenOperand s.races) := if_pos h

/-- A command runs as the instruction its operand fields, as it reads them, decode to. -/
theorem step_eq_settleOut_exec {s : State} {r : Request} {rest : List Event} {i : Instr}
    (hport : s.port = .command r :: rest) (hdecode : decodeCommand r.code (seenOperands r s) = .ok i) :
    step s = settleOut r s.races (exec i (s.taking r rest)) := by
  rw [step_command s r rest hport, runCommand, hdecode, acceptRequest_eq_taking]

/-- The same with the race on OUT in the terms of Safety.lean. -/
theorem step_eq_next_settling {s : State} {r : Request} {rest : List Event} {i : Instr}
    (hport : s.port = .command r :: rest) (hdecode : decodeCommand r.code (seenOperands r s) = .ok i) :
    ∃ t, exec i (s.taking r rest) = .next t ∧ step s = .next (s.settling r t) := by
  obtain ⟨t, hexec⟩ := exec_eq_next i (s.taking r rest)
  exact ⟨t, hexec, by rw [step_eq_settleOut_exec hport hdecode, hexec, settleOut_next]⟩

/-- In a race on IN a command runs as what its operand fields decode to with free values for IN's bytes. -/
theorem step_of_racedIn {s : State} {r : Request} {rest : List Event} {code : BitVec 5} {ops : List Operand} {i : Instr}
    (hport : s.port = .command r :: rest) (hraced : r.racedIn = true) (hcode : r.code = code) (hops : r.operands = ops)
    (hdecode : decodeCommand code (ops.map (seenOperand s.races)) = .ok i) :
    ∃ t, exec i (s.taking r rest) = .next t ∧ step s = .next (s.settling r t) :=
  step_eq_next_settling hport (by rw [seenOperands_of_raced r s hraced, hcode, hops, hdecode])

/-- Without a race the number of raced commands stays. -/
theorem taking_of_not_raced {s : State} {r : Request} {rest : List Event} (hin : r.racedIn = false)
    (hout : r.racedOut = false) : s.taking r rest = { s with port := rest, out := r.out.getD s.out } := by
  simp [hin, hout]

/-- No instruction issues or takes an event. -/
theorem exec_port {i : Instr} {s t : State} (h : exec i s = .next t) : t.port = s.port := by
  obtain ⟨-, -, hport, -⟩ := onlyBuilderCommandsWriteTheBuilder i s t h
  exact hport

/-! ### The output buffer -/

theorem respond_status_ok_iff (o : CmdOutcome) (s : State) : (respond o s).status = .ok ↔ ∃ v, o = .ok v := by
  cases o <;> simp

/-- What an instruction does to OUT: leave it, and then it is no appending command that ended OK, or append as many bytes
as it is to write and end OK. -/
theorem exec_out_cases {i : Instr} {s t : State} (h : exec i s = .next t) :
    (t.out = s.out ∧ (i.family = .toOut → t.status ≠ .ok)) ∨
    ∃ b : Bytes, t.out = s.out ++ b ∧ i.bufferSize = some b.length ∧ i.family = .toOut ∧ t.status = .ok := by
  rcases exec_cases i s with ⟨o, hrespond, hnotOk, -⟩ | ⟨e, hfamily, hsize, hlength, hrespond⟩ |
      ⟨hbuilding, u, v, hrespond, -, hout, -⟩
  · obtain rfl := Host.Outcome.next.inj (hrespond.symm.trans h)
    refine .inl ⟨respond_out s o, fun hfamily hok => ?_⟩
    obtain ⟨v, rfl⟩ := (respond_status_ok_iff o s).mp hok
    exact hnotOk hfamily v rfl
  · obtain rfl := Host.Outcome.next.inj (hrespond.symm.trans h)
    exact .inr ⟨e.bytes, by simp, by rw [hsize, hlength], hfamily, rfl⟩
  · obtain rfl := Host.Outcome.next.inj (hrespond.symm.trans h)
    exact .inl ⟨by simp [hout], fun hfamily => by simp [hbuilding] at hfamily⟩

/-! ### The obligations -/

/-- Settles O5: the bytes seen are `racedBytes` of IN, and on them each of the four commands decodes as on IN. -/
theorem racedBuffersHoldAnyBytes : Obligations.RacedBuffersHoldAnyBytes := by
  constructor
  · intro n w b j
    simpa using getElem?_racedBytes n w 0 b j
  · intro s r rest flag k inp hport hraced
    exact ⟨fun hcode hops => step_of_racedIn hport hraced hcode hops rfl,
      fun hcode hops => step_of_racedIn hport hraced hcode hops rfl,
      fun hcode hops => step_of_racedIn hport hraced hcode hops rfl,
      fun hcode hops => step_of_racedIn hport hraced hcode hops rfl⟩

/-- Settles O57: an instruction leaves OUT or puts bytes behind it. -/
theorem outIsAppendOnly : Obligations.OutIsAppendOnly := by
  intro i s t hexec
  rcases exec_out_cases hexec with ⟨hout, hnotOk⟩ | ⟨b, hout, hsize, hfamily, hok⟩
  · rw [hout]
    exact ⟨fun _ _ => rfl, le_rfl, fun hlt => absurd hlt (lt_irrefl _), fun hfamily hok => absurd hok (hnotOk hfamily)⟩
  · rw [hout, List.length_append]
    exact ⟨fun _ ha => List.getElem?_append_left ha, Nat.le_add_right _ _, fun _ => ⟨hfamily, hok⟩,
      fun _ _ => ⟨b.length, hsize, rfl⟩⟩

/-- Settles O59: without a race on IN, or without IN, the operand fields are read as they were issued. -/
theorem commandsThatReadNoRacedByteRunAsDecoded : Obligations.CommandsThatReadNoRacedByteRunAsDecoded := by
  intro s r rest i hport hnoRace hdecode
  have hseen : seenOperands r s = r.operands := by
    rcases hnoRace with hin | hnoInput
    · exact seenOperands_of_not_raced r s hin
    · exact seenOperands_of_no_input r s hnoInput
  exact step_eq_next_settling hport (by rw [hseen, hdecode])

/-- Settles O2: without a race neither the operand fields nor OUT are changed by another agent. -/
theorem stepRunsTheDecodedCommand : Obligations.StepRunsTheDecodedCommand := by
  intro s r rest i hport hin hout hdecode
  rw [← seenOperands_of_not_raced r s hin] at hdecode
  rw [step_eq_settleOut_exec hport hdecode, settleOut_of_not_raced _ _ _ hout, taking_of_not_raced hin hout]

/-- Settles O4: the block takes the event itself, and neither reset nor a command touches the ones behind it. -/
theorem stepWaitsOrTakesOneEvent : Obligations.StepWaitsOrTakesOneEvent := by
  refine ⟨step_idle, fun s t e rest hport hstep => ?_⟩
  rcases step_cases hstep with ⟨hempty, -⟩ | ⟨rest', hreset, rfl⟩ | ⟨r, rest', u, b, hcommand, rfl, -, -, hrun⟩
  · simp [hport] at hempty
  · obtain ⟨-, rfl⟩ := List.cons.inj (hreset.symm.trans hport)
    rfl
  · obtain ⟨-, rfl⟩ := List.cons.inj (hcommand.symm.trans hport)
    rcases hrun with ⟨i, -, hexec⟩ | ⟨-, rfl⟩
    · exact exec_port hexec
    · exact respond_port _ _

end Sys2Proof.Machine
end

section
/-! PROOF. The two encodings (30_encoding.md): decoder and encoder undo each other on frame rows (R44, R47) and on
commands (R52), the type codes and command codes that name nothing (R53, R54), and operand fields that are ill typed (R53). -/

namespace Sys2Proof.Machine

/-! ### Frame rows -/

/-- The frame row of a type code, whether it names a kind (R47) or none (R54). -/
def frameRow (t : BitVec 6) (sid : BitVec 32) (flags : BitVec 10) (body : Bytes) : Instr :=
  match kindOf t with
  | some k => frameOfKind k sid flags body
  | none => frameOfIllegal t sid flags body

/-- A type code is a kind's, or it is one of the codes of the four illegal rows. -/
theorem typeCode_cases (t : BitVec 6) :
    (∃ k : Kind, t = k.code) ∨ t = 0x00#6 ∨ t = 0x0F#6 ∨ (∃ low : BitVec 4, t = 0b01#2 ++ low) ∨
      ∃ low : BitVec 5, t = 0b1#1 ++ low := by
  cases hkind : kindOf t with
  | some k => exact .inl ⟨k, (code_kindOf t k hkind).symm⟩
  | none =>
    right
    revert t
    decide

theorem kindOf_illegal10 (low : BitVec 4) : kindOf (0b01#2 ++ low) = none := by
  revert low
  decide

theorem kindOf_illegal20 (low : BitVec 5) : kindOf (0b1#1 ++ low) = none := by
  revert low
  decide

section
variable (sid : BitVec 32) (flags : BitVec 10) (body : Bytes)

@[simp] theorem frameRow_code (k : Kind) : frameRow k.code sid flags body = frameOfKind k sid flags body := by
  rw [frameRow, kindOf_code]

@[simp] theorem frameRow_illegal10 (low : BitVec 4) :
    frameRow (0b01#2 ++ low) sid flags body = .frameIllegal10 low sid flags body := by
  have hnonzero : 0b01#2 ++ low ≠ 0x00#6 := by revert low; decide
  have hrange : ¬ (0b01#2 ++ low).toNat < 0x10 ∧ (0b01#2 ++ low).toNat < 0x20 := by revert low; decide
  have hlow : (0b01#2 ++ low).setWidth 4 = low := by revert low; decide
  rw [frameRow, kindOf_illegal10]
  simp only [frameOfIllegal, hnonzero, hrange, hlow, if_true, if_false]

@[simp] theorem frameRow_illegal20 (low : BitVec 5) :
    frameRow (0b1#1 ++ low) sid flags body = .frameIllegal20 low sid flags body := by
  have hnonzero : 0b1#1 ++ low ≠ 0x00#6 := by revert low; decide
  have hrange : ¬ (0b1#1 ++ low).toNat < 0x10 ∧ ¬ (0b1#1 ++ low).toNat < 0x20 := by revert low; decide
  have hlow : (0b1#1 ++ low).setWidth 5 = low := by revert low; decide
  rw [frameRow, kindOf_illegal20]
  simp only [frameOfIllegal, hnonzero, hrange, hlow, if_false]

/-- A frame row is written with its own type code. -/
@[simp] theorem encode_frameRow (t : BitVec 6) :
    encode (frameRow t sid flags body) = .frame (frameBytes t sid flags body) := by
  rcases typeCode_cases t with ⟨k, rfl⟩ | rfl | rfl | ⟨low, rfl⟩ | ⟨low, rfl⟩
  · rw [frameRow_code]
    cases k <;> rfl
  · rfl
  · rfl
  · rw [frameRow_illegal10, encode]
  · rw [frameRow_illegal20, encode]

/-- The row of a type code that names no kind ends with the illegal outcome of that code (R90). -/
theorem exec_frameRow_of_no_kind {t : BitVec 6} (h : kindOf t = none) (s : State) :
    exec (frameRow t sid flags body) s = .next (respond (illegalOutcome s.params t sid flags body) s) := by
  rcases typeCode_cases t with ⟨k, rfl⟩ | rfl | rfl | ⟨low, rfl⟩ | ⟨low, rfl⟩
  · simp at h
  · rfl
  · rfl
  · rw [frameRow_illegal10]
    rfl
  · rw [frameRow_illegal20]
    rfl

/-- Within the size limit the illegal outcome is the error with the header (R90). -/
theorem respond_illegalOutcome_of_fits {s : State} (h : Fits s.params (6 + body.length)) (t : BitVec 6) :
    respond (illegalOutcome s.params t sid flags body) s =
      s.endsErr ⟨.illegalFrameType, some ⟨sid, t, flags⟩⟩ := by
  rw [illegalOutcome, (fits_iff_not_tooLarge _ _).mp h]
  rfl

end

/-- A buffer with room for a header decodes to the row of the type code in it. -/
theorem decodeFrame_eq_frameRow {b : Bytes} (h : 6 ≤ b.length) :
    decodeFrame b =
      .ok (frameRow (readHeader b).type (readHeader b).streamId (readHeader b).flag (b.drop 6)) := by
  unfold decodeFrame
  rw [if_neg (Nat.not_lt.mpr h), frameRow]
  dsimp only
  cases kindOf (readHeader b).type <;> rfl

/-- Decoding a frame's bytes gives the row of its type code, with every operand (R44). -/
theorem decodeFrame_frameBytes (t : BitVec 6) (sid : BitVec 32) (flags : BitVec 10) (body : Bytes) :
    decodeFrame (frameBytes t sid flags body) = .ok (frameRow t sid flags body) := by
  rw [decodeFrame_eq_frameRow (by simp [frameBytes]), frameBytes, readHeader_writeHeader, drop_writeHeader]
  simp

/-- A buffer with room for a header is written back from what is read of it (R44). -/
theorem frameBytes_readHeader {b : Bytes} (h : 6 ≤ b.length) :
    frameBytes (readHeader b).type (readHeader b).streamId (readHeader b).flag (b.drop 6) = b := by
  rw [frameBytes, writeHeader_readHeader b h, List.take_append_drop]

/-! ### Commands -/

/-- The command codes that name no command (R53), by the row they belong to. -/
theorem reservedCode_cases {code : BitVec 5} (h : code = 0 ∨ 0x16 ≤ code.toNat) :
    code = 0x00#5 ∨ (∃ low : BitVec 1, code = 0b1011#4 ++ low) ∨ ∃ low : BitVec 3, code = 0b11#2 ++ low := by
  revert code
  decide

theorem decodeCommand_reserved16 (low : BitVec 1) (ops : List Operand) :
    decodeCommand (0b1011#4 ++ low) ops = .ok (.cmdReserved16 low) := by
  obtain rfl | rfl : low = 0 ∨ low = 1 := by revert low; decide
  · rfl
  · rfl

theorem decodeCommand_reserved18 (low : BitVec 3) (ops : List Operand) :
    decodeCommand (0b11#2 ++ low) ops = .ok (.cmdReserved18 low) := by
  have hcode : 0x18 ≤ (0b11#2 ++ low).toNat := by revert low; decide
  have hlow : (0b11#2 ++ low).setWidth 3 = low := by revert low; decide
  unfold decodeCommand
  split
  case h_25 => rw [hlow]
  all_goals omega

/-- A race on IN does not make ill-typed operand fields well typed (R53). -/
theorem decodeCommand_seenOperands_error {r : Request} {m : String} (s : State)
    (h : decodeCommand r.code r.operands = .error (.badOperand m)) :
    decodeCommand r.code (seenOperands r s) = .error (.badOperand m) := by
  cases hraced : r.racedIn with
  | false => rwa [seenOperands_of_not_raced r s hraced]
  | true =>
    rw [seenOperands_of_raced r s hraced]
    exact decodeCommand_map_seenOperand_error s.races h

/-! ### The obligations -/

/-- Settles O8: a frame row decodes by the type code its bytes carry, a command by its code and its operand fields. -/
theorem decodeUndoesEncode : Obligations.DecodeUndoesEncode := by
  intro i
  cases i
  case frameIllegal10 low sid flags body =>
    rw [← frameRow_illegal10, encode_frameRow, decode, decodeFrame_frameBytes]
  case frameIllegal20 low sid flags body =>
    rw [← frameRow_illegal20, encode_frameRow, decode, decodeFrame_frameBytes]
  case cmdReserved16 low => exact decodeCommand_reserved16 low []
  case cmdReserved18 low => exact decodeCommand_reserved18 low []
  case frameSetup | frameLease | frameKeepalive | frameRequestResponse | frameRequestFnf | frameRequestStream |
      frameRequestChannel | frameRequestN | frameCancel | framePayload | frameError | frameMetadataPush | frameResume |
      frameResumeOk | frameIllegal00 | frameIllegal0F =>
    exact decodeFrame_frameBytes _ _ _ _
  -- what is left is a command of one code, whose operand fields are read in the order they are written
  all_goals rfl

/-- Settles O3: the command is refused whether or not it reads raced bytes, since they have the same types. -/
theorem stepRefusesIllTypedOperands : Obligations.StepRefusesIllTypedOperands := by
  intro s r rest m hport hdecode
  rw [step_command s r rest hport, runCommand, decodeCommand_seenOperands_error s hdecode, acceptRequest_eq_taking]
  exact settleOut_next r s _

/-- Settles O9: the row is the one of the type code in the buffer; another row with the same encoding would be what the
buffer decodes to as well. -/
theorem everyWireFrameIsItsRowsEncoding : Obligations.EveryWireFrameIsItsRowsEncoding := by
  intro b hlength
  refine ⟨_, decodeFrame_eq_frameRow hlength, ?_, fun j hencode => ?_⟩
  · rw [encode_frameRow, frameBytes_readHeader hlength]
  · have hdecode : decodeFrame b = .ok j := by
      have hundo := decodeUndoesEncode j
      rwa [hencode] at hundo
    exact Except.ok.inj (hdecode.symm.trans (decodeFrame_eq_frameRow hlength))

/-- Settles O7: the decoders evaluate to these rows. -/
theorem writtenOutWordsDecodeToTheirRows : Obligations.WrittenOutWordsDecodeToTheirRows :=
  ⟨rfl, rfl, rfl, rfl, rfl, rfl, rfl, rfl, rfl⟩

/-- Settles O34: the four rows are the rows of type codes that name no kind; in the last two the code is the row's fixed
bits above the bits it leaves free. -/
theorem illegalFrameRowsReportTheirHeader : Obligations.IllegalFrameRowsReportTheirHeader := by
  intro sid f body s hfits
  have hends : ∀ t, kindOf t = none →
      exec (frameRow t sid f body) s = .next (s.endsErr ⟨.illegalFrameType, some ⟨sid, t, f⟩⟩) := fun t hkind => by
    rw [exec_frameRow_of_no_kind sid f body hkind, respond_illegalOutcome_of_fits sid f body hfits]
  refine ⟨hends 0x00#6 rfl, hends 0x0F#6 rfl, fun low => ?_, fun low => ?_⟩
  · have hcode : BitVec.ofNat 6 (16 + low.toNat) = 0b01#2 ++ low := by revert low; decide
    rw [hcode, ← frameRow_illegal10, hends _ (kindOf_illegal10 low)]
  · have hcode : BitVec.ofNat 6 (32 + low.toNat) = 0b1#1 ++ low := by revert low; decide
    rw [hcode, ← frameRow_illegal20, hends _ (kindOf_illegal20 low)]

/-- Settles O54: a reserved code decodes to one of the three reserved rows, and each of them refuses. -/
theorem reservedCommandsAreRefused : Obligations.ReservedCommandsAreRefused := by
  refine ⟨fun code ops hcode => ?_, fun s => ⟨rfl, fun _ => rfl, fun _ => rfl⟩⟩
  rcases reservedCode_cases hcode with rfl | ⟨low, rfl⟩ | ⟨low, rfl⟩
  · exact ⟨_, rfl, rfl⟩
  · exact ⟨_, decodeCommand_reserved16 low ops, rfl⟩
  · exact ⟨_, decodeCommand_reserved18 low ops, rfl⟩

end Sys2Proof.Machine
end

section
/-! PROOF. The header commands (40_header.md): what HDR_ENC and HDR_DEC answer (R56, R57) and that they undo each other
(R61), the flag bits that HAS_NEXT and HAS_COMPLETE test (R58, R59), and the code that TYPE_OF returns (R60). -/

namespace Sys2Proof.Machine

/-! ### What HDR_DEC comes to -/

/-- Within the size limit a buffer without room for a header is truncated (R57, R92). -/
theorem exec_hdrDec_of_short {inp : Bytes} {s : State} (hfits : Fits s.params inp.length) (hshort : inp.length < 6) :
    exec (.hdrDec inp) s = .next (s.endsErr ⟨.truncated, none⟩) := by
  have houtcome : hdrDecOutcome s.params inp = .err ⟨.truncated, none⟩ := by
    simp [hdrDecOutcome, (fits_iff_not_tooLarge _ _).mp hfits, hshort]
  rw [exec, execHdrDec, houtcome]
  rfl

/-- Within the size limit a buffer with room for a header gives that header (R57). -/
theorem exec_hdrDec_of_room {inp : Bytes} {s : State} (hfits : Fits s.params inp.length) (hroom : 6 ≤ inp.length) :
    exec (.hdrDec inp) s = .next (s.endsOk (some (.header (readHeader inp)))) := by
  have houtcome : hdrDecOutcome s.params inp = .ok (some (.header (readHeader inp))) := by
    simp [hdrDecOutcome, (fits_iff_not_tooLarge _ _).mp hfits, hroom]
  rw [exec, execHdrDec, houtcome]
  rfl

/-! ### The type codes -/

/-- The codes of the kinds are 0x01 to 0x0E (R14). -/
theorem code_mem_range (k : Kind) : 1 ≤ k.code.toNat ∧ k.code.toNat ≤ 14 := by
  cases k <;> decide

/-! ### The obligations -/

/-- Settles O11: HDR_ENC answers what `writeHeader` writes, which is the header written out. -/
theorem hdrEncReturnsTheSixHeaderBytes : Obligations.HdrEncReturnsTheSixHeaderBytes := by
  intro sid type flag s
  rw [← writeHeader_eq]
  rfl

/-- Settles O12: the header read from a buffer with six bytes in front is made of those bytes. -/
theorem hdrDecSplitsTheFirstSixBytes : Obligations.HdrDecSplitsTheFirstSixBytes := by
  refine ⟨fun _ _ => exec_hdrDec_of_short, fun b0 b1 b2 b3 b4 b5 rest s hfits => ?_⟩
  have hlength : (b0 :: b1 :: b2 :: b3 :: b4 :: b5 :: rest).length = 6 + rest.length := by
    simp only [List.length_cons]
    omega
  rw [exec_hdrDec_of_room (by rwa [hlength]) (by omega), readHeader_cons]

/-- Settles O13: `readHeader` and `writeHeader` undo each other, and neither command changes the size limit. -/
theorem headerDecodeAndEncodeAreInverse : Obligations.HeaderDecodeAndEncodeAreInverse := by
  constructor
  · intro sid type flag s hfits
    have hread : readHeader (writeHeader sid type flag) = ⟨sid, type, (flag &&& 0x03FF#16).setWidth 10⟩ := by
      rw [setWidth_mask_flag]
      simpa using readHeader_writeHeader sid type flag []
    have hlength := length_writeHeader sid type flag
    refine ⟨writeHeader sid type flag, _, rfl, rfl, hlength, ?_⟩
    rw [exec_hdrDec_of_room (by rwa [hlength]) hlength.ge, hread]
  · intro h s hlength hfits
    have hwrite : writeHeader (readHeader h).streamId (readHeader h).type ((readHeader h).flag.setWidth 16) = h := by
      rw [writeHeader_readHeader h hlength.ge, ← hlength, List.take_length]
    refine ⟨readHeader h, _, exec_hdrDec_of_room (by rwa [hlength]) hlength.ge, rfl, ?_⟩
    rw [hdrEncReturnsTheSixHeaderBytes, ← writeHeader_eq, hwrite]

/-- Settles O14: bit `i` is the parity of the flag divided by `2 ^ i`, here 32 and 64. -/
theorem predicatesTestBitsFiveAndSix : Obligations.PredicatesTestBitsFiveAndSix := by
  intro flag s
  have hnext : hasNextBit flag = decide (flag.toNat / 32 % 2 = 1) := Nat.testBit_eq_decide_div_mod_eq
  have hcomplete : hasCompleteBit flag = decide (flag.toNat / 64 % 2 = 1) := Nat.testBit_eq_decide_div_mod_eq
  rw [← hnext, ← hcomplete]
  exact ⟨rfl, rfl⟩

/-- Settles O15: a typed body passes the operand check, and TYPE_OF answers the code of its kind. -/
theorem typeOfReturnsTheKindsCode : Obligations.TypeOfReturnsTheKindsCode := by
  intro body s htyped
  refine ⟨?_, code_mem_range body.kind⟩
  rw [exec, execTypeOf, withTypedBody_of_typed _ _ _ htyped]
  rfl

end Sys2Proof.Machine
end

section
/-! PROOF. The payload codec (41_payload.md): what PL_DEC, PL_ENC, PL_LEN and SPLIT answer (R62 to R65), and what PL_DEC
makes of the bytes PL_ENC appends (R66). -/

namespace Sys2Proof.Machine

/-! ### PL_DEC -/

section
variable {flag : BitVec 16} {inp : Bytes} {s : State}

/-- Within the size limit a payload that decodes is the result (R62). -/
theorem exec_plDec_of_ok {md d : Option Bytes} (hfits : Fits s.params inp.length)
    (hdecode : decodePayload flag inp none = .ok (md, d)) :
    exec (.plDec flag inp) s = .next (s.endsOk (some (.pair md d))) := by
  have houtcome : plDecOutcome s.params flag inp = .ok (some (.pair md d)) := by
    simp [plDecOutcome, (fits_iff_not_tooLarge _ _).mp hfits, hdecode]
  rw [exec, execPlDec, houtcome]
  rfl

/-- Within the size limit a decoding error is the outcome (R62). -/
theorem exec_plDec_of_error {e : ErrRec} (hfits : Fits s.params inp.length)
    (hdecode : decodePayload flag inp none = .error e) :
    exec (.plDec flag inp) s = .next (s.endsErr e) := by
  have houtcome : plDecOutcome s.params flag inp = .err e := by
    simp [plDecOutcome, (fits_iff_not_tooLarge _ _).mp hfits, hdecode]
  rw [exec, execPlDec, houtcome]
  rfl

end

/-- With bit 8 set a run is too short for a length, shorter than its length says, or has metadata (R62). -/
theorem decodePayload_cases_of_set {flag : BitVec 16} (h : flag.getLsbD 8 = true) (inp : Bytes) (hdr : Option Header) :
    decodePayload flag inp hdr = .error ⟨.truncated, hdr⟩ ∨
    decodePayload flag inp hdr = .error ⟨.lengthOverrun, hdr⟩ ∨
    ∃ m d, decodePayload flag inp hdr = .ok (some m, d) := by
  match inp with
  | [] | [_] | [_, _] => exact .inl (decodePayload_of_short h _ hdr (by simp))
  | a :: b :: c :: rest =>
    by_cases hlength : rest.length < a.toNat * 65536 + b.toNat * 256 + c.toNat
    · exact .inr (.inl (decodePayload_of_overrun h a b c rest hdr hlength))
    · obtain ⟨m, d, rfl, hm⟩ : ∃ m d, rest = m ++ d ∧ m.length = a.toNat * 65536 + b.toNat * 256 + c.toNat :=
        ⟨_, _, (List.take_append_drop _ rest).symm, List.length_take_of_le (Nat.not_lt.mp hlength)⟩
      exact .inr (.inr ⟨m, _, decodePayload_of_fits h a b c m d hdr hm⟩)

/-! ### The payload layout, written out -/

theorem wirePayload_some (m : Bytes) (data : Option Bytes) :
    Wire.payload (some m) data = Wire.u24 m.length ++ m ++ data.getD [] := by
  cases data with
  | none => exact (List.append_nil _).symm
  | some d => rfl

/-- A run that begins with a metadata length is not empty, and as data it is present (R66). -/
theorem wireData_wirePayload_some (m : Bytes) (data : Option Bytes) :
    Wire.data (Wire.payload (some m) data) = some (Wire.u24 m.length ++ m ++ data.getD []) := by
  rw [wirePayload_some]
  rfl

/-! ### The obligations -/

/-- Settles O17: the checks of R97 and R96 come first, and what is appended is the payload layout. -/
theorem plEncAppendsThePayloadLayout : Obligations.PlEncAppendsThePayloadLayout := by
  intro md data s hfits
  rw [length_wirePayload, fits_iff_not_tooLarge] at hfits
  rw [metadataFits_iff, Bool.not_eq_false, ← encodePayload_eq]
  exact ⟨fun hsmall => congrArg _ (emitToOut_of_fits hfits hsmall),
    fun hlarge => congrArg _ (emitToOut_of_oversize hfits hlarge)⟩

/-- Settles O16: each clause is one way through the payload decode. -/
theorem plDecReadsThePayloadLayout : Obligations.PlDecReadsThePayloadLayout := by
  refine fun flag s => ⟨fun hset => ⟨?short, ?overrun, ?room⟩, ?clear⟩
  case short =>
    intro inp hfits hshort
    exact exec_plDec_of_error hfits (decodePayload_of_short hset inp none hshort)
  case overrun =>
    intro a b c rest hfits hlength
    exact exec_plDec_of_error (Fits_of_le hfits (by simp; omega)) (decodePayload_of_overrun hset a b c rest none hlength)
  case room =>
    intro a b c m d hfits hlength
    exact exec_plDec_of_ok (Fits_of_le hfits (by simp; omega)) (decodePayload_of_fits hset a b c m d none hlength)
  case clear =>
    intro hclear inp hfits
    exact exec_plDec_of_ok hfits (decodePayload_of_clear hclear inp none)

/-- Settles O20: PL_DEC by itself runs the payload decode, under bit 8 as it is or is not in PL_ENC's layout. -/
theorem payloadLaws : Obligations.PayloadLaws := by
  intro md data flag s hmd hfits
  obtain ⟨hencode, -⟩ := plEncAppendsThePayloadLayout md data s hfits
  refine ⟨⟨_, hencode hmd, rfl, rfl⟩, fun u hparams => ?_⟩
  rw [← hparams] at hfits
  refine ⟨fun hbit hdata => ?sameBit, fun hbit hdata => ?emptyData, fun m hm hclear => ?lostMetadata,
    fun hnone hset => ?noMetadata⟩
  case sameBit =>
    have hdecode := decodePayload_wirePayload md data none hbit hmd
    rw [wireData_getD hdata] at hdecode
    exact exec_plDec_of_ok hfits hdecode
  case emptyData =>
    have hdecode := decodePayload_wirePayload md data none hbit hmd
    rw [hdata] at hdecode hfits ⊢
    exact exec_plDec_of_ok hfits hdecode
  case lostMetadata =>
    subst hm
    rw [← wireData_wirePayload_some]
    exact exec_plDec_of_ok hfits (decodePayload_of_clear hclear _ none)
  case noMetadata =>
    rcases decodePayload_cases_of_set hset (Wire.payload md data) none with hdecode | hdecode | ⟨m, d, hdecode⟩
    · exact .inl (exec_plDec_of_error hfits hdecode)
    · exact .inr (.inl (exec_plDec_of_error hfits hdecode))
    · exact .inr (.inr ⟨m, d, exec_plDec_of_ok hfits hdecode⟩)

/-- Settles O18: a PL_ENC that ends OK has appended as many bytes as the layout has, and `payloadLength` counts them. -/
theorem plLenIsTheNumberOfBytesPlEncAppends : Obligations.PlLenIsTheNumberOfBytesPlEncAppends := by
  refine ⟨fun m d s => ⟨rfl, ?_, rfl, rfl⟩, fun md data s t u n hencode hok hlen hres => ?_⟩
  · have hdata : payloadLength none (some d) = d.length := Nat.zero_add _
    rw [← hdata]
    rfl
  · obtain rfl := Host.Outcome.next.inj hlen
    obtain rfl : payloadLength md data = n := by simpa using hres
    rcases exec_out_cases hencode with ⟨-, hnotOk⟩ | ⟨b, hout, hsize, -⟩
    · exact absurd hok (hnotOk rfl)
    · have hlength : (Wire.payload md data).length = b.length := Option.some.inj hsize
      rw [hout, List.length_append, ← length_wirePayload, hlength]

/-- Settles O19: a payload-kind body has its two parts, and another body has none, so it is refused with or without the
check of its type. -/
theorem splitReturnsDataThenMetadata : Obligations.SplitReturnsDataThenMetadata := by
  constructor
  · intro k n md data s htyped
    rw [exec, execSplit, withTypedBody_of_typed _ _ _ htyped, splitOutcome, parts?_payloadBody]
    rfl
  · intro body s hkind
    have hparts : body.parts? = none := by
      rw [← Option.not_isSome_iff_eq_none, isSome_parts?_iff, hkind]
      exact Bool.false_ne_true
    have houtcome : splitOutcome body = .refuse .badOperand := by rw [splitOutcome, hparts]
    rw [exec, execSplit, houtcome]
    rcases withTypedBody_cases body s (respond (.refuse .badOperand)) with ⟨-, hrefuse⟩ | ⟨-, hrefuse⟩
    · exact congrArg _ hrefuse
    · exact congrArg _ hrefuse

end Sys2Proof.Machine
end

section
/-! PROOF. The bodies (42_bodies.md): what BODY_DEC by itself and the frame rows of the kinds make of a body (R67 to R73,
R78), what BODY_ENC appends and BODY_LEN answers (R74, R75), and that the three agree (R77). -/

namespace Sys2Proof.Machine

/-! ### BODY_DEC and the frame rows end as the body decode does -/

section
variable {k : Kind} {flag : BitVec 16} {inp : Bytes} {s : State}

/-- Within the size limit a body that decodes is the result (R67). -/
theorem exec_bodyDec_of_ok {b : Body} (hfits : Fits s.params inp.length)
    (hdecode : decodeBody s.params k flag inp none = .ok b) :
    exec (.bodyDec k flag inp) s = .next (s.endsOk (some (.body b))) := by
  have houtcome : bodyDecOutcome s.params k flag inp = .ok (some (.body b)) := by
    simp [bodyDecOutcome, (fits_iff_not_tooLarge _ _).mp hfits, hdecode]
  rw [exec, execBodyDec, houtcome]
  rfl

/-- Within the size limit a decoding error is the outcome (R67). -/
theorem exec_bodyDec_of_error {e : ErrRec} (hfits : Fits s.params inp.length)
    (hdecode : decodeBody s.params k flag inp none = .error e) :
    exec (.bodyDec k flag inp) s = .next (s.endsErr e) := by
  have houtcome : bodyDecOutcome s.params k flag inp = .err e := by
    simp [bodyDecOutcome, (fits_iff_not_tooLarge _ _).mp hfits, hdecode]
  rw [exec, execBodyDec, houtcome]
  rfl

end

section
variable {k : Kind} {sid : BitVec 32} {f : BitVec 10} {body : Bytes} {s : State}

/-- Within the size limit a frame whose body decodes is the result, its flag zero-extended (R78). -/
theorem exec_frameOfKind_of_ok {b : Body} (hfits : Fits s.params (6 + body.length))
    (hdecode : decodeBody s.params k (f.setWidth 16) body (some ⟨sid, k.code, f⟩) = .ok b) :
    exec (frameOfKind k sid f body) s = .next (s.endsOk (some (.frame ⟨sid, f.setWidth 16, b⟩))) := by
  have houtcome : frameOutcome s.params k sid f body = .ok (some (.frame ⟨sid, f.setWidth 16, b⟩)) := by
    simp [frameOutcome, (fits_iff_not_tooLarge _ _).mp hfits, hdecode]
  rw [exec_frameOfKind, houtcome]
  rfl

/-- Within the size limit an error in the body is the outcome (R78). -/
theorem exec_frameOfKind_of_error {e : ErrRec} (hfits : Fits s.params (6 + body.length))
    (hdecode : decodeBody s.params k (f.setWidth 16) body (some ⟨sid, k.code, f⟩) = .error e) :
    exec (frameOfKind k sid f body) s = .next (s.endsErr e) := by
  have houtcome : frameOutcome s.params k sid f body = .err e := by
    simp [frameOutcome, (fits_iff_not_tooLarge _ _).mp hfits, hdecode]
  rw [exec_frameOfKind, houtcome]
  rfl

end

/-! ### A 4-byte field in front of a body -/

/-- Four bytes in front of a run are the field they make. -/
theorem cons_four_eq_wireU32_append (a b c d : Byte) (rest : Bytes) :
    a :: b :: c :: d :: rest = Wire.u32 (a ++ b ++ c ++ d) ++ rest := by
  rw [wireU32_append]
  rfl

theorem length_wireU32_append (n : BitVec 32) (rest : Bytes) : (Wire.u32 n ++ rest).length = 4 + rest.length :=
  List.length_append

theorem memRead_wireU32_append (n : BitVec 32) (rest : Bytes) :
    BitVec.ofNat 32 (memRead (Wire.u32 n ++ rest) 0 4) = n := by
  have hvalue : memRead (Wire.u32 n ++ rest) 0 4 = n.toNat := by
    rw [← be_four_eq, memRead_be]
    exact Nat.mod_eq_of_lt n.isLt
  rw [hvalue, BitVec.ofNat_toNat, BitVec.setWidth_eq]

theorem slice_wireU32_append (n : BitVec 32) (rest : Bytes) :
    slice (Wire.u32 n ++ rest) 4 (Wire.u32 n ++ rest).length = rest :=
  slice_to_end _ 4

/-- A field and what is behind it are no shorter than the field. -/
theorem not_length_wireU32_append_lt (n : BitVec 32) (rest : Bytes) : ¬ (Wire.u32 n ++ rest).length < 4 := by
  rw [length_wireU32_append]
  omega

/-! ### The body decode of each class of kinds (R68 to R73) -/

section
variable {p : Params} {flag : BitVec 16} {inp : Bytes} {hdr : Option Header}

/-- The arm of R68 is the payload decode, with the parts put into the body. -/
theorem decodePlainBody_eq_map (k : PayloadKind) :
    decodePlainBody k flag inp hdr = (decodePayload flag inp hdr).map fun x => k.body none x.1 x.2 := by
  unfold decodePlainBody
  cases decodePayload flag inp hdr <;> rfl

theorem decodeCountedBody_of_no_prefix (hprefix : p.reqnPrefix = false) (k : PayloadKind) :
    decodeCountedBody p k flag inp hdr = decodePlainBody k flag inp hdr := by
  simp [decodeCountedBody, hprefix]

theorem decodeCountedBody_of_short (hprefix : p.reqnPrefix = true) (k : PayloadKind) (hshort : inp.length < 4) :
    decodeCountedBody p k flag inp hdr = .error ⟨.truncated, hdr⟩ := by
  simp [decodeCountedBody, hprefix, hshort]

/-- The arm of R69 behind a count is the payload decode of the rest, with the count and the parts put into the body. -/
theorem decodeCountedBody_eq_map (hprefix : p.reqnPrefix = true) (k : PayloadKind) (n : BitVec 32) (rest : Bytes) :
    decodeCountedBody p k flag (Wire.u32 n ++ rest) hdr =
      (decodePayload flag rest hdr).map fun x => k.body (some n) x.1 x.2 := by
  rw [decodeCountedBody, if_pos hprefix, if_neg (not_length_wireU32_append_lt n rest), slice_wireU32_append,
    memRead_wireU32_append]
  cases decodePayload flag rest hdr <;> rfl

theorem decodeRequestN_of_short (hshort : inp.length < 4) : decodeRequestN inp hdr = .error ⟨.truncated, hdr⟩ :=
  if_pos hshort

theorem decodeRequestN_wireU32_append (n : BitVec 32) (rest : Bytes) :
    decodeRequestN (Wire.u32 n ++ rest) hdr = .ok (.requestN n) := by
  rw [decodeRequestN, if_neg (not_length_wireU32_append_lt n rest), memRead_wireU32_append]

theorem decodeErrorBody_of_short (hshort : inp.length < 4) : decodeErrorBody inp hdr = .error ⟨.truncated, hdr⟩ :=
  if_pos hshort

theorem decodeErrorBody_wireU32_append (code : BitVec 32) (message : Bytes) :
    decodeErrorBody (Wire.u32 code ++ message) hdr = .ok (.error code message) := by
  rw [decodeErrorBody, if_neg (not_length_wireU32_append_lt code message), memRead_wireU32_append,
    slice_wireU32_append]

theorem decodeExtBody_of_value {k : ExtKind} (make : ExtValue → Body) {v : ExtValue}
    (h : Config.extDecode k (flag.setWidth 10) inp = .value v) :
    decodeExtBody k make flag inp hdr = .ok (make v) := by
  rw [decodeExtBody, h]

theorem decodeExtBody_of_error {k : ExtKind} (make : ExtValue → Body) {c : ExtCause}
    (h : Config.extDecode k (flag.setWidth 10) inp = .error c) :
    decodeExtBody k make flag inp hdr = .error ⟨ofExtCause c, hdr⟩ := by
  rw [decodeExtBody, h]

end

/-! ### BODY_DEC of a payload layout takes what PL_DEC takes -/

section
variable {flag : BitVec 16} {inp : Bytes} {s u : State}

/-- What PL_DEC can do: refuse the size, answer the parts that decode, or report the error. -/
theorem exec_plDec_cases (h : exec (.plDec flag inp) s = .next u) :
    u = s.endsRefuse .bufferTooLarge ∨
    Fits s.params inp.length ∧
      ((∃ md d, decodePayload flag inp none = .ok (md, d) ∧ u = s.endsOk (some (.pair md d))) ∨
        ∃ e, decodePayload flag inp none = .error e ∧ u = s.endsErr e) := by
  by_cases hfits : Fits s.params inp.length
  · refine .inr ⟨hfits, ?_⟩
    cases hdecode : decodePayload flag inp none with
    | ok x => exact .inl ⟨x.1, x.2, rfl, Host.Outcome.next.inj (h.symm.trans (exec_plDec_of_ok hfits hdecode))⟩
    | error e => exact .inr ⟨e, rfl, Host.Outcome.next.inj (h.symm.trans (exec_plDec_of_error hfits hdecode))⟩
  · left
    have houtcome : plDecOutcome s.params flag inp = .refuse .bufferTooLarge :=
      if_pos ((not_fits_iff_tooLarge _ _).mp hfits)
    rw [exec, execPlDec, houtcome] at h
    exact (Host.Outcome.next.inj h).symm

/-- A body `body` whose decode is the payload decode of a run `inp` of it, with the parts put into a body by `make`:
BODY_DEC of it answers or reports what PL_DEC of the run answers or reports (R68, R69). -/
theorem exec_bodyDec_of_plDec {k : Kind} {body : Bytes} {make : Option Bytes → Option Bytes → Body}
    (hfits : Fits s.params inp.length → Fits s.params body.length)
    (hbody : decodeBody s.params k flag body none = (decodePayload flag inp none).map fun x => make x.1 x.2)
    (hplDec : exec (.plDec flag inp) s = .next u) :
    (∀ md data, u.res = some (.pair md data) →
      exec (.bodyDec k flag body) s = .next (s.endsOk (some (.body (make md data))))) ∧
    ∀ e, u.errrec = some e → exec (.bodyDec k flag body) s = .next (s.endsErr e) := by
  rcases exec_plDec_cases hplDec with rfl | ⟨hinp, ⟨md, d, hdecode, rfl⟩ | ⟨e, hdecode, rfl⟩⟩
  · exact ⟨nofun, nofun⟩
  · rw [hdecode] at hbody
    refine ⟨fun md' d' hres => ?_, nofun⟩
    obtain ⟨rfl, rfl⟩ : md = md' ∧ d = d' := by simpa using hres
    exact exec_bodyDec_of_ok (hfits hinp) hbody
  · rw [hdecode] at hbody
    refine ⟨nofun, fun e' herr => ?_⟩
    obtain rfl : e = e' := Option.some.inj herr
    exact exec_bodyDec_of_error (hfits hinp) hbody

end

/-! ### Frames of the plain payload kinds -/

/-- Within the size limit the frame of a kind without a count holds the parts of its payload (R68, R78). -/
theorem exec_frameOfKind_of_plain {k : PayloadKind} {sid : BitVec 32} {f : BitVec 10} {body : Bytes} {s : State}
    {md d : Option Bytes} (hcount : k.hasCount = false) (hfits : Fits s.params (6 + body.length))
    (hdecode : ∀ hdr, decodePayload (f.setWidth 16) body hdr = .ok (md, d)) :
    exec (frameOfKind k.toKind sid f body) s =
      .next (s.endsOk (some (.frame ⟨sid, f.setWidth 16, k.body none md d⟩))) := by
  refine exec_frameOfKind_of_ok hfits ?_
  rw [decodeBody_of_plain hcount, decodePlainBody_eq_map, hdecode]
  rfl

/-! ### The conditions of R77 -/

/-- A body that survives a round trip has metadata that can be encoded. -/
theorem metadataFits_of_roundTrips {flag : BitVec 16} {b : Body} (h : b.RoundTrips flag) : MetadataFits b.metadata := by
  unfold Body.RoundTrips at h
  unfold Body.metadata
  cases hparts : b.parts? with
  | none => exact fun m hm => nomatch hm
  | some x =>
    rw [hparts] at h
    obtain ⟨-, -, hmd⟩ := h
    exact hmd

/-! ### The obligations -/

/-- Settles O21: each kind has its arm of the body decode, and the payload kinds' arm is PL_DEC's. -/
theorem bodyDecOfPlainAndFixedKinds : Obligations.BodyDecOfPlainAndFixedKinds := by
  refine ⟨?payloadKinds, ?cancel, ?short, ?field⟩
  case payloadKinds =>
    intro k flag inp s u hcount hplDec
    exact exec_bodyDec_of_plDec id ((decodeBody_of_plain hcount).trans (decodePlainBody_eq_map k)) hplDec
  case cancel =>
    intro flag inp s hfits
    exact exec_bodyDec_of_ok hfits rfl
  case short =>
    intro flag inp s hfits hshort
    exact ⟨exec_bodyDec_of_error hfits (decodeRequestN_of_short hshort),
      exec_bodyDec_of_error hfits (decodeErrorBody_of_short hshort)⟩
  case field =>
    intro flag a b c d rest s hfits
    rw [cons_four_eq_wireU32_append]
    rw [← length_wireU32_append (a ++ b ++ c ++ d)] at hfits
    exact ⟨exec_bodyDec_of_ok hfits (decodeRequestN_wireU32_append _ rest),
      exec_bodyDec_of_ok hfits (decodeErrorBody_wireU32_append _ rest)⟩

/-- Settles O22: without a count in front the arm is PL_DEC's, and with one PL_DEC's behind it. -/
theorem bodyDecOfRequestStreamAndChannel : Obligations.BodyDecOfRequestStreamAndChannel := by
  intro k flag s hcount
  have harm (inp : Bytes) : decodeBody s.params k.toKind flag inp none = decodeCountedBody s.params k flag inp none :=
    decodeBody_of_counted hcount
  refine ⟨fun hprefix inp u hplDec => ?_, fun hprefix => ⟨fun inp hfits hshort => ?_, ?_⟩⟩
  · have hbody := (harm inp).trans (decodeCountedBody_of_no_prefix hprefix k)
    exact exec_bodyDec_of_plDec id (hbody.trans (decodePlainBody_eq_map k)) hplDec
  · exact exec_bodyDec_of_error hfits ((harm inp).trans (decodeCountedBody_of_short hprefix k hshort))
  · intro a b c d rest u hfits hplDec
    rw [cons_four_eq_wireU32_append]
    rw [← length_wireU32_append (a ++ b ++ c ++ d)] at hfits
    exact exec_bodyDec_of_plDec (fun _ => hfits) ((harm _).trans (decodeCountedBody_eq_map hprefix k _ rest)) hplDec

/-- Settles O23: the five external kinds have one arm, and the mask keeps the ten bits it hands over. -/
theorem bodyDecAsksTheExternalUnit : Obligations.BodyDecAsksTheExternalUnit := by
  intro flag inp s hfits verdict
  have hverdict (k : Kind) (ext : ExtKind) (make : ExtValue → Body)
      (harm : decodeBody s.params k flag inp none = decodeExtBody ext make flag inp none) :
      exec (.bodyDec k flag inp) s = .next (verdict ext make) := by
    simp only [verdict, setWidth_mask_flag]
    cases hext : Config.extDecode ext (flag.setWidth 10) inp with
    | value v => exact exec_bodyDec_of_ok hfits (harm.trans (decodeExtBody_of_value make hext))
    | error c =>
      have hends := exec_bodyDec_of_error hfits (harm.trans (decodeExtBody_of_error make hext))
      cases c with
      | lengthOverrun => exact hends
      | truncated => exact hends
  exact ⟨hverdict .setup _ _ rfl, hverdict .lease _ _ rfl, hverdict .keepalive _ _ rfl, hverdict .resume _ _ rfl,
    hverdict .resumeOk _ _ rfl⟩

/-- Settles O24: the checks of R53, R97 and R96 come first, and what is appended is the body written out. -/
theorem bodyEncAppendsTheBodysBytes : Obligations.BodyEncAppendsTheBodysBytes := by
  intro body s htyped hfits
  rw [length_wireBody, fits_iff_not_tooLarge] at hfits
  rw [metadataFits_iff, Bool.not_eq_false, exec, execBodyEnc, withTypedBody_of_typed _ _ _ htyped, ← encodeBody_eq]
  exact ⟨fun hsmall => congrArg _ (emitToOut_of_fits hfits hsmall),
    fun hlarge => congrArg _ (emitToOut_of_oversize hfits hlarge)⟩

/-- Settles O25: the number is computed from the body alone, and it counts the bytes written out. -/
theorem bodyLenAnswersForEveryBody : Obligations.BodyLenAnswersForEveryBody := by
  intro body s htyped
  rw [exec, execBodyLen, withTypedBody_of_typed _ _ _ htyped, length_wireBody]
  rfl

/-- Settles O26: a BODY_ENC that ends OK has appended as many bytes as the body has written out, and under R77's
conditions the body decode gives the body back. -/
theorem bodyLengthAndRoundTrip : Obligations.BodyLengthAndRoundTrip := by
  constructor
  · intro body s t u n hencode hok hlen hres
    have hn : (Wire.body body).length = n := by
      obtain rfl := Host.Outcome.next.inj hlen
      rw [length_wireBody]
      rcases withTypedBody_cases body s (respond (.ok (some (.natural (bodyLength body))))) with
        ⟨-, hends⟩ | ⟨-, hends⟩
      · simpa [hends] using hres
      · simp [hends] at hres
    rcases exec_out_cases hencode with ⟨-, hnotOk⟩ | ⟨b, hout, hsize, -⟩
    · exact absurd hok (hnotOk rfl)
    · have hlength : (Wire.body body).length = b.length := Option.some.inj hsize
      rw [hout, List.length_append, ← hlength, hn]
  · intro body flag s u htyped hfits hparams hinternal hround
    obtain ⟨hencode, -⟩ := bodyEncAppendsTheBodysBytes body s htyped hfits
    rw [← hparams] at htyped hfits
    exact ⟨⟨_, hencode (metadataFits_of_roundTrips hround), rfl, rfl⟩,
      exec_bodyDec_of_ok hfits (decodeBody_wireBody none htyped hinternal hround)⟩

/-- Settles O30: bit 8 of the wire flag is bit 8 of the record flag, and it chooses the layout for the four kinds alike. -/
theorem plainPayloadFramesDecode : Obligations.PlainPayloadFramesDecode := by
  intro sid f s
  constructor
  · intro body hclear hfits
    rw [← getLsbD_setWidth_flag] at hclear
    have hframe (k : PayloadKind) (hcount : k.hasCount = false) :=
      exec_frameOfKind_of_plain (sid := sid) hcount hfits (decodePayload_of_clear hclear body)
    exact ⟨hframe .requestResponse rfl, hframe .requestFnf rfl, hframe .payload rfl, hframe .metadataPush rfl⟩
  · intro m d hset hm hfits
    rw [← getLsbD_setWidth_flag] at hset
    have hsize : 6 + (Wire.u24 m.length ++ m ++ d).length = 9 + m.length + d.length := by
      simp [Wire.u24]
      omega
    rw [← hsize] at hfits
    have hframe (k : PayloadKind) (hcount : k.hasCount = false) :=
      exec_frameOfKind_of_plain (sid := sid) hcount hfits fun hdr => decodePayload_u24 hset m d hdr hm
    exact ⟨hframe .requestResponse rfl, hframe .requestFnf rfl, hframe .payload rfl, hframe .metadataPush rfl⟩

/-- Settles O31: the bytes are a typed body of the kind written out, under a flag that lets it survive a round trip. -/
theorem streamAndChannelFramesDecode : Obligations.StreamAndChannelFramesDecode := by
  intro sid f n md data s hcount hbit hmd hdata hfits
  have htyped : (n.isSome == s.params.reqnPrefix) = true := beq_iff_eq.mpr hcount
  rw [← getLsbD_setWidth_flag] at hbit
  have hround : (f.setWidth 16).getLsbD 8 = md.isSome ∧ data ≠ some [] ∧ MetadataFits md := ⟨hbit, hdata, hmd⟩
  exact ⟨exec_frameOfKind_of_ok (k := .requestStream) hfits
      (decodeBody_wireBody (b := .requestStream n md data) _ htyped rfl hround),
    exec_frameOfKind_of_ok (k := .requestChannel) hfits
      (decodeBody_wireBody (b := .requestChannel n md data) _ htyped rfl hround)⟩

/-- Settles O32: each kind has its arm of the body decode, and a 4-byte field makes the frame ten bytes and the rest. -/
theorem cancelRequestNAndErrorFramesDecode : Obligations.CancelRequestNAndErrorFramesDecode := by
  intro sid f rest s
  refine ⟨fun hfits => ?cancel, fun n hfits => ?field, fun hfits hshort => ?short⟩
  case cancel => exact exec_frameOfKind_of_ok (k := .cancel) hfits rfl
  case field =>
    have hsize : 6 + (Wire.u32 n ++ rest).length = 10 + rest.length := by
      rw [length_wireU32_append]
      omega
    rw [← hsize] at hfits
    exact ⟨exec_frameOfKind_of_ok (k := .requestN) hfits (decodeRequestN_wireU32_append n rest),
      exec_frameOfKind_of_ok (k := .error) hfits (decodeErrorBody_wireU32_append n rest)⟩
  case short =>
    exact ⟨exec_frameOfKind_of_error (k := .requestN) hfits (decodeRequestN_of_short hshort),
      exec_frameOfKind_of_error (k := .error) hfits (decodeErrorBody_of_short hshort)⟩

/-- Settles O33: the five external kinds have one arm, and the record flag hands over the ten wire bits again. -/
theorem externalFramesEndAsTheExternalUnitSays : Obligations.ExternalFramesEndAsTheExternalUnitSays := by
  intro sid f body s hfits verdict
  have hflag : (f.setWidth 16).setWidth 10 = f := by simp
  have hverdict (k : Kind) (ext : ExtKind) (make : ExtValue → Body)
      (harm : ∀ hdr, decodeBody s.params k (f.setWidth 16) body hdr = decodeExtBody ext make (f.setWidth 16) body hdr) :
      exec (frameOfKind k sid f body) s = .next (verdict ext make k.code) := by
    simp only [verdict]
    cases hext : Config.extDecode ext f body with
    | value v =>
      rw [← hflag] at hext
      exact exec_frameOfKind_of_ok hfits ((harm _).trans (decodeExtBody_of_value make hext))
    | error c =>
      rw [← hflag] at hext
      have hends := exec_frameOfKind_of_error (sid := sid) hfits ((harm _).trans (decodeExtBody_of_error make hext))
      cases c with
      | lengthOverrun => exact hends
      | truncated => exact hends
  exact ⟨hverdict .setup _ _ fun _ => rfl, hverdict .lease _ _ fun _ => rfl, hverdict .keepalive _ _ fun _ => rfl,
    hverdict .resume _ _ fun _ => rfl, hverdict .resumeOk _ _ fun _ => rfl⟩

end Sys2Proof.Machine
end

section
/-! PROOF. The frame envelope (43_envelope.md): FRM_DEC runs the row of the frame's type code (R78), what FRM_WRITE, FRM_ENC
and FRM_LEN answer (R79 to R81), and that FRM_DEC and FRM_ENC undo each other (R82). -/

namespace Sys2Proof.Machine

/-! ### FRM_DEC -/

/-- A buffer above the size limit is refused before anything of it is read (R97). -/
theorem exec_frmDec_of_not_fits {b : Bytes} {s : State} (hlarge : ¬ Fits s.params b.length) :
    exec (.frmDec b) s = .next (s.endsRefuse .bufferTooLarge) := by
  rw [exec, execFrmDec, if_pos ((not_fits_iff_tooLarge _ _).mp hlarge)]
  rfl

/-- Within the size limit a buffer without room for a header is truncated (R78, R92). -/
theorem exec_frmDec_of_short {b : Bytes} {s : State} (hfits : Fits s.params b.length) (hshort : b.length < 6) :
    exec (.frmDec b) s = .next (s.endsErr ⟨.truncated, none⟩) := by
  rw [exec, execFrmDec, if_neg (by simp [(fits_iff_not_tooLarge _ _).mp hfits]), if_pos hshort]
  rfl

/-- A frame row above the size limit is refused, whether its type code names a kind or none (R97). -/
theorem exec_frameRow_of_not_fits {t : BitVec 6} {sid : BitVec 32} {flags : BitVec 10} {body : Bytes} {s : State}
    (hlarge : ¬ Fits s.params (6 + body.length)) :
    exec (frameRow t sid flags body) s = .next (s.endsRefuse .bufferTooLarge) := by
  rw [not_fits_iff_tooLarge] at hlarge
  cases hkind : kindOf t with
  | some k =>
    rw [← code_kindOf t k hkind, frameRow_code, exec_frameOfKind, frameOutcome, if_pos hlarge]
    rfl
  | none =>
    rw [exec_frameRow_of_no_kind sid flags body hkind, illegalOutcome, if_pos hlarge]
    rfl

/-- A buffer with room for a header runs the row of the type code in it (R78). The row counts the header again, so the
size limit refuses both or neither. -/
theorem exec_frmDec_eq_frameRow {b : Bytes} (hroom : 6 ≤ b.length) (s : State) :
    exec (.frmDec b) s =
      exec (frameRow (readHeader b).type (readHeader b).streamId (readHeader b).flag (b.drop 6)) s := by
  by_cases hfits : Fits s.params b.length
  · rw [exec, execFrmDec, if_neg (by simp [(fits_iff_not_tooLarge _ _).mp hfits]), if_neg (Nat.not_lt.mpr hroom)]
    exact dispatchFrame_eq_exec _ _ _
  · have hsize : 6 + (b.drop 6).length = b.length := by
      rw [List.length_drop]
      omega
    rw [exec_frmDec_of_not_fits hfits, exec_frameRow_of_not_fits (by rwa [hsize])]

/-- What a buffer from which FRM_DEC returns a frame must have been: within the size limit, with a header whose type code
names a kind, and with a body of that kind behind it (R78). -/
theorem exec_frmDec_accepts {b : Bytes} {f : Frame} {s t : State} (hdec : exec (.frmDec b) s = .next t)
    (hres : t.res = some (.frame f)) :
    Fits s.params b.length ∧ 6 ≤ b.length ∧ t = s.endsOk (some (.frame f)) ∧
      f.streamId = (readHeader b).streamId ∧ f.flag = (readHeader b).flag.setWidth 16 ∧
      ∃ k : Kind, k.code = (readHeader b).type ∧
        decodeBody s.params k f.flag (b.drop 6) (some (readHeader b)) = .ok f.body := by
  by_cases hfits : Fits s.params b.length
  case neg =>
    obtain rfl := Host.Outcome.next.inj ((exec_frmDec_of_not_fits hfits).symm.trans hdec)
    cases hres
  rcases Nat.lt_or_ge b.length 6 with hshort | hroom
  · obtain rfl := Host.Outcome.next.inj ((exec_frmDec_of_short hfits hshort).symm.trans hdec)
    cases hres
  have hsize : Fits s.params (6 + (b.drop 6).length) := Fits_of_le hfits (by rw [List.length_drop]; omega)
  rw [exec_frmDec_eq_frameRow hroom] at hdec
  cases hkind : kindOf (readHeader b).type with
  | none =>
    rw [exec_frameRow_of_no_kind _ _ _ hkind, respond_illegalOutcome_of_fits _ _ _ hsize] at hdec
    obtain rfl := Host.Outcome.next.inj hdec
    cases hres
  | some k =>
    have hcode := code_kindOf _ k hkind
    rw [← hcode, frameRow_code] at hdec
    have hheader : (⟨(readHeader b).streamId, k.code, (readHeader b).flag⟩ : Header) = readHeader b := by rw [hcode]
    rw [← hheader]
    cases hdecode : decodeBody s.params k ((readHeader b).flag.setWidth 16) (b.drop 6)
        (some ⟨(readHeader b).streamId, k.code, (readHeader b).flag⟩) with
    | ok body =>
      obtain rfl := Host.Outcome.next.inj ((exec_frameOfKind_of_ok hsize hdecode).symm.trans hdec)
      obtain rfl := Value.frame.inj (Option.some.inj hres)
      exact ⟨hfits, hroom, rfl, rfl, rfl, k, rfl, hdecode⟩
    | error e =>
      obtain rfl := Host.Outcome.next.inj ((exec_frameOfKind_of_error hsize hdecode).symm.trans hdec)
      cases hres

/-! ### The bytes of a frame -/

theorem length_wireFrame_eq_add (f : Frame) : (Wire.frame f).length = 6 + (Wire.body f.body).length := by
  rw [Wire.frame, List.length_append, length_wireHeader]

/-- A frame written out is the row of its kind with the low ten bits of the record flag (R79). -/
theorem wireFrame_eq_frameBytes (f : Frame) :
    Wire.frame f = frameBytes f.body.kind.code f.streamId (f.flag.setWidth 10) (Wire.body f.body) := by
  rw [Wire.frame, ← writeHeader_eq, frameBytes, writeHeader, writeHeader, packWord_setWidth]

/-- A frame with the header of a buffer is written out as that header and its body. -/
theorem wireFrame_of_readHeader {b : Bytes} {f : Frame} (hroom : 6 ≤ b.length)
    (hsid : f.streamId = (readHeader b).streamId) (hflag : f.flag = (readHeader b).flag.setWidth 16)
    (hcode : f.body.kind.code = (readHeader b).type) : Wire.frame f = b.take 6 ++ Wire.body f.body := by
  rw [Wire.frame, hsid, hflag, hcode, ← writeHeader_eq, writeHeader_readHeader b hroom]

/-- A record flag with bits 15:10 clear survives the wire (R19). -/
theorem setWidth_setWidth_flag {f : Frame} (h : f.FlagNarrow) : (f.flag.setWidth 10).setWidth 16 = f.flag := by
  apply BitVec.eq_of_toNat_eq
  rw [BitVec.toNat_setWidth, BitVec.toNat_setWidth]
  omega

/-! ### FRM_LEN -/

theorem exec_frmLen_of_typed {f : Frame} {s : State} (htyped : f.body.typed s.params = true) :
    exec (.frmLen f) s = .next (s.endsOk (some (.natural (Wire.frame f).length))) := by
  rw [exec, execFrmLen, withTypedBody_of_typed _ _ _ htyped, length_wireFrame]
  rfl

/-- A number that FRM_LEN returns is the frame's number of bytes. -/
theorem length_wireFrame_of_frmLen {f : Frame} {s u : State} {n : Nat} (hlen : exec (.frmLen f) s = .next u)
    (hres : u.res = some (.natural n)) : (Wire.frame f).length = n := by
  cases htyped : f.body.typed s.params with
  | true =>
    obtain rfl := Host.Outcome.next.inj ((exec_frmLen_of_typed htyped).symm.trans hlen)
    exact Value.natural.inj (Option.some.inj hres)
  | false =>
    rw [exec, execFrmLen, withTypedBody, htyped] at hlen
    obtain rfl := Host.Outcome.next.inj hlen
    cases hres

/-! ### FRM_ENC beside FRM_WRITE -/

/-- A run from `s` that ends in `u` is the run on an empty OUT that ends in `t`, with what that run appended as its result
and the OUT of `s` left alone (R80). -/
def ReturnsWhatIsAppended (s t u : State) : Prop :=
  u.status = t.status ∧ u.out = s.out ∧ (t.status = .ok → u = s.endsOk (some (.bytes t.out))) ∧
    (t.status ≠ .ok → u = { t with out := s.out })

/-- An outcome other than OK is recorded alike beside either OUT. -/
theorem returnsWhatIsAppended_of_stop {o : CmdOutcome} (hstop : ∀ v, o ≠ .ok v) (s : State) :
    ReturnsWhatIsAppended s (respond o { s with out := [] }) (respond o s) := by
  cases o with
  | ok v => exact absurd rfl (hstop v)
  | err | fault | refuse => exact ⟨rfl, rfl, nofun, fun _ => rfl⟩

theorem returnsWhatIsAppended_emit (e : Emission) (s : State) :
    ReturnsWhatIsAppended s (emitToOut e { s with out := [] }) (emitToRes e s) := by
  unfold emitToOut emitToRes emissionStop
  dsimp only
  split_ifs
  · exact returnsWhatIsAppended_of_stop (o := .refuse .bufferTooLarge) nofun s
  · exact returnsWhatIsAppended_of_stop (o := .fault .encOversizeMetadata) nofun s
  · exact ⟨rfl, rfl, fun _ => rfl, fun h => absurd rfl h⟩

/-! ### The obligations -/

/-- Settles O27: a buffer that decodes has room for a header, and decodes to the row that FRM_DEC runs. -/
theorem frmDecRunsTheRowOfTheFrame : Obligations.FrmDecRunsTheRowOfTheFrame := by
  intro b i s hdecode
  rcases Nat.lt_or_ge b.length 6 with hshort | hroom
  · rw [decodeFrame, if_pos hshort] at hdecode
    cases hdecode
  · rw [exec_frmDec_eq_frameRow hroom, Except.ok.inj ((decodeFrame_eq_frameRow hroom).symm.trans hdecode)]

/-- Settles O29: the body decode does not look at the header it puts into an error record. -/
theorem frameRowsDecodeTheBodyOfTheirKind : Obligations.FrameRowsDecodeTheBodyOfTheirKind := by
  intro k sid f body s u hfits hbodyDec
  have hsize : Fits s.params body.length := Fits_of_le hfits (Nat.le_add_left _ _)
  obtain ⟨hvalue, herror⟩ := decodeBody_header (p := s.params) (k := k) (flag := f.setWidth 16) (inp := body)
    (h1 := none) (h2 := some ⟨sid, k.code, f⟩)
  cases hdecode : decodeBody s.params k (f.setWidth 16) body none with
  | ok b =>
    obtain rfl := Host.Outcome.next.inj ((exec_bodyDec_of_ok hsize hdecode).symm.trans hbodyDec)
    refine ⟨fun b' hres => ?_, nofun⟩
    obtain rfl := Value.body.inj (Option.some.inj hres)
    exact exec_frameOfKind_of_ok hfits (hvalue b hdecode)
  | error e =>
    obtain rfl := Host.Outcome.next.inj ((exec_bodyDec_of_error hsize hdecode).symm.trans hbodyDec)
    refine ⟨nofun, fun c herrrec => ?_⟩
    obtain rfl := Option.some.inj herrrec
    obtain ⟨-, hframe⟩ := herror c none hdecode
    exact exec_frameOfKind_of_error hfits hframe

/-- Settles O28: past the header FRM_DEC is the row of the type code, and the row of a kind is O29's. -/
theorem frmDecDecodesOneFrame : Obligations.FrmDecDecodesOneFrame := by
  refine ⟨fun b s => exec_frmDec_of_short, fun b0 b1 b2 b3 b4 b5 rest s hfits => ?_⟩
  intro sid type f
  have hrow : exec (.frmDec (b0 :: b1 :: b2 :: b3 :: b4 :: b5 :: rest)) s = exec (frameRow type sid f rest) s := by
    rw [exec_frmDec_eq_frameRow (by simp), readHeader_cons]
    rfl
  rw [hrow]
  refine ⟨fun hkind => ?_, fun k u hcode hbodyDec => ?_⟩
  · rw [exec_frameRow_of_no_kind sid f rest hkind, respond_illegalOutcome_of_fits sid f rest hfits]
  · rw [← hcode, frameRow_code]
    exact frameRowsDecodeTheBodyOfTheirKind k sid f rest s u hfits hbodyDec

/-- Settles O36: the checks of R53, R97 and R96 come first, and what is appended is the frame written out. -/
theorem frmWriteAppendsTheFrame : Obligations.FrmWriteAppendsTheFrame := by
  intro f s htyped hfits
  rw [length_wireFrame, fits_iff_not_tooLarge] at hfits
  rw [metadataFits_iff, Bool.not_eq_false, exec, execFrmWrite, withTypedBody_of_typed _ _ _ htyped, ← encodeFrame_eq]
  exact ⟨fun hsmall => congrArg _ (emitToOut_of_fits hfits hsmall),
    fun hlarge => congrArg _ (emitToOut_of_oversize hfits hlarge)⟩

/-- Settles O37: both commands check the body's type and then emit one encoding, to OUT and to RES. -/
theorem frmEncIsFrmWriteToAnEmptyBuffer : Obligations.FrmEncIsFrmWriteToAnEmptyBuffer := by
  intro f s
  refine ⟨_, _, rfl, rfl, ?_⟩
  change ReturnsWhatIsAppended s _ _
  unfold withTypedBody
  split_ifs
  · exact returnsWhatIsAppended_emit (frameEmission f) s
  · exact returnsWhatIsAppended_of_stop (o := .refuse .badOperand) nofun s

/-- Settles O38: past the checks of R53, R97 and R96 the result is the frame written out. -/
theorem frmEncReturnsTheFramesBytes : Obligations.FrmEncReturnsTheFramesBytes := by
  intro f s htyped hfits hmd
  rw [length_wireFrame, fits_iff_not_tooLarge] at hfits
  rw [metadataFits_iff] at hmd
  rw [exec, execFrmEnc, withTypedBody_of_typed _ _ _ htyped, ← encodeFrame_eq]
  exact congrArg _ (emitToRes_of_fits hfits hmd)

/-- Settles O39: the number counts the frame written out, which is six header bytes and the body, and as many bytes are
appended. -/
theorem frmLenIsSixMoreThanBodyLen : Obligations.FrmLenIsSixMoreThanBodyLen := by
  refine ⟨fun f s htyped => ?_, fun f s t u n hwrite hok hlen hres => ?_⟩
  · refine ⟨_, _, bodyLenAnswersForEveryBody f.body s htyped, rfl, ?_⟩
    rw [exec_frmLen_of_typed htyped, length_wireFrame_eq_add]
  · rcases exec_out_cases hwrite with ⟨-, hnotOk⟩ | ⟨b, hout, hsize, -⟩
    · exact absurd hok (hnotOk rfl)
    · have hlength : (Wire.frame f).length = b.length := Option.some.inj hsize
      rw [hout, List.length_append, ← hlength, length_wireFrame_of_frmLen hlen hres]

/-- Settles O40: the bytes of a canonical frame decode to the row of its kind, whose body decode gives the body back under
the flag that went over the wire. -/
theorem canonicalFramesRoundTrip : Obligations.CanonicalFramesRoundTrip := by
  intro f s u ⟨hnarrow, hround, hinternal⟩ htyped hfits hparams
  refine ⟨frmEncReturnsTheFramesBytes f s htyped hfits (metadataFits_of_roundTrips hround), ?_⟩
  rw [← hparams] at htyped hfits
  rw [length_wireFrame_eq_add] at hfits
  have hflag := setWidth_setWidth_flag hnarrow
  rw [wireFrame_eq_frameBytes, frmDecRunsTheRowOfTheFrame _ _ u (decodeFrame_frameBytes _ _ _ _), frameRow_code,
    exec_frameOfKind_of_ok hfits (decodeBody_wireBody _ htyped hinternal (by rwa [hflag])), hflag]

/-- Settles O41: an accepted buffer is a header and a body of the kind the header names, and the frame is written out as
that header and the bytes the body decode took. -/
theorem acceptedBytesReencode : Obligations.AcceptedBytesReencode := by
  intro b f s t hdec hres
  obtain ⟨hfits, hroom, hends, hsid, hflag, k, hcode, hdecode⟩ := exec_frmDec_accepts hdec hres
  obtain ⟨rfl, htyped, hmd, hwhole, hcancel, hrequestN⟩ := decodeBody_accepts hdecode
  have hparams : t.params = s.params := by rw [hends]
  rw [← hparams] at hfits htyped
  have hencode (bytes : Bytes) (hbytes : b.take 6 ++ Wire.body f.body = bytes) (hle : bytes.length ≤ b.length) :
      exec (.frmEnc f) t = .next (t.endsOk (some (.bytes bytes))) := by
    rw [← hbytes, ← wireFrame_of_readHeader hroom hsid hflag hcode] at hle ⊢
    exact frmEncReturnsTheFramesBytes f t htyped (Fits_of_le hfits hle) hmd
  refine ⟨fun hkind => hencode b ?whole le_rfl, fun hkind => hencode _ ?cancel (List.length_take_le' _ _),
    fun hkind => hencode _ ?requestN (List.length_take_le' _ _)⟩
  case whole => rw [hwhole hkind, List.take_append_drop]
  case cancel => rw [hcancel hkind, List.append_nil]
  case requestN =>
    obtain ⟨hfield, -⟩ := hrequestN hkind
    rw [hfield]
    exact (List.take_add (l := b) (i := 6) (j := 4)).symm

end Sys2Proof.Machine
end

section
/-! PROOF. The payload frame builder (44_builder.md): what each builder command does with an open builder and without one
(R83 to R87), that only B_SET_ALL clears bit 8 of an open builder (R86), and the builder invariant (R88). -/

namespace Sys2Proof.Machine

/-! ### The builder commands on an open builder and without one -/

/-- A frame being built has a count where the parameters ask for one and its kind may have one (R16). -/
theorem countedBuild_eq_true_iff (p : Params) (k : PayloadKind) :
    countedBuild p k = true ↔ p.reqnPrefix = true ∧ (k = .requestStream ∨ k = .requestChannel) := by
  cases k <;> simp [countedBuild, PayloadKind.hasCount]

/-- A kind that is not a payload kind is refused, whether or not a builder is open (C9). -/
theorem exec_bInit_of_not_payload {kind : Kind} (hkind : kind.payload? = none) (sid : BitVec 32) (flag : BitVec 16)
    (initn : BitVec 32) (s : State) : exec (.bInit kind sid flag initn) s = .next (respond (.refuse .badOperand) s) := by
  rw [exec, execBInit, hkind]

section
variable {s : State}

section
variable (hopen : s.bldValid = true)
include hopen

theorem withBuilder_of_open (k : State → State) : withBuilder s k = k s := if_pos hopen

theorem exec_bInit_of_open {kind : Kind} {k : PayloadKind} (hkind : kind.payload? = some k) (sid : BitVec 32)
    (flag : BitVec 16) (initn : BitVec 32) :
    exec (.bInit kind sid flag initn) s = .next (respond (.refuse .builderBusy) s) := by
  rw [exec, execBInit, hkind]
  exact congrArg _ (if_pos hopen)

theorem exec_bSetMd_of_open (m : Bytes) :
    exec (.bSetMd m) s = .next (respond (.ok none) (putMetadata (some m) s)) :=
  congrArg _ (withBuilder_of_open hopen _)

theorem exec_bSetData_of_open (d : Bytes) :
    exec (.bSetData d) s = .next (respond (.ok none) { s with bldData := some d }) :=
  congrArg _ (withBuilder_of_open hopen _)

theorem exec_bSetAll_of_open (data md : Option Bytes) :
    exec (.bSetAll data md) s = .next (respond (.ok none) { putMetadata md s with bldData := data }) :=
  congrArg _ (withBuilder_of_open hopen _)

theorem exec_bBuild_of_open :
    exec .bBuild s = .next (respond (.ok (some (.frame (builtFrame s)))) { s with bldValid := false }) :=
  congrArg _ (withBuilder_of_open hopen _)

end

section
variable (hclosed : s.bldValid = false)
include hclosed

theorem withBuilder_of_closed (k : State → State) : withBuilder s k = respond (.refuse .noBuilder) s := by
  rw [withBuilder, hclosed]
  rfl

theorem exec_bInit_of_closed (k : PayloadKind) (sid : BitVec 32) (flag : BitVec 16) (initn : BitVec 32) :
    exec (.bInit k.toKind sid flag initn) s = .next (respond (.ok none) (openBuilder k sid flag initn s)) := by
  rw [exec, execBInit, payload?_toKind, hclosed]
  rfl

theorem exec_bBuild_of_closed : exec .bBuild s = .next (respond (.refuse .noBuilder) s) :=
  congrArg _ (withBuilder_of_closed hclosed _)

end

end

/-! ### Bit 8 of an open builder -/

/-- On an open builder B_INIT is refused, whatever the kind. -/
theorem exec_bInit_refuses_of_open {s : State} (hopen : s.bldValid = true) (kind : Kind) (sid : BitVec 32)
    (flag : BitVec 16) (initn : BitVec 32) :
    ∃ reason, exec (.bInit kind sid flag initn) s = .next (respond (.refuse reason) s) := by
  cases hkind : kind.payload? with
  | none => exact ⟨_, exec_bInit_of_not_payload hkind sid flag initn s⟩
  | some k => exact ⟨_, exec_bInit_of_open hopen hkind sid flag initn⟩

/-- A set bit 8 of an open builder stays set, unless B_SET_ALL is given no metadata (R86). -/
theorem bit8_stays_or_bSetAll_none {i : Instr} {s t : State} (hopen : s.bldValid = true)
    (hset : s.bldFlag.getLsbD 8 = true) (hexec : exec i s = .next t) :
    t.bldFlag.getLsbD 8 = true ∨ ∃ data, i = .bSetAll data none := by
  by_cases hfamily : i.family = .building
  · cases i with
    | bInit kind sid flag initn =>
      obtain ⟨reason, hrefuse⟩ := exec_bInit_refuses_of_open hopen kind sid flag initn
      obtain rfl := Host.Outcome.next.inj (hrefuse.symm.trans hexec)
      exact .inl hset
    | bSetMd m =>
      obtain rfl := Host.Outcome.next.inj ((exec_bSetMd_of_open hopen m).symm.trans hexec)
      exact .inl (setMetadata_bit8 s.bldFlag)
    | bSetData d =>
      obtain rfl := Host.Outcome.next.inj ((exec_bSetData_of_open hopen d).symm.trans hexec)
      exact .inl hset
    | bSetAll data md =>
      cases md with
      | none => exact .inr ⟨data, rfl⟩
      | some m =>
        obtain rfl := Host.Outcome.next.inj ((exec_bSetAll_of_open hopen data (some m)).symm.trans hexec)
        exact .inl (setMetadata_bit8 s.bldFlag)
    | bBuild =>
      obtain rfl := Host.Outcome.next.inj ((exec_bBuild_of_open hopen).symm.trans hexec)
      exact .inl hset
    | _ => nomatch hfamily
  · obtain ⟨hframe, -⟩ := onlyBuilderCommandsWriteTheBuilder i s t hexec
    obtain ⟨-, -, -, hflag, -⟩ := hframe hfamily
    exact .inl (by rw [hflag, hset])

/-! ### The builder invariant -/

/-- Ending a command writes no builder register. -/
theorem builderConsistent_respond {s : State} (h : s.BuilderConsistent) (o : CmdOutcome) :
    (respond o s).BuilderConsistent := by
  simpa [State.BuilderConsistent] using h

/-- Every instruction keeps the builder invariant: it leaves the builder registers alone, or it is a builder command, which
updates field and flag together. -/
theorem builderConsistent_exec {i : Instr} {s t : State} (h : s.BuilderConsistent)
    (hexec : exec i s = .next t) : t.BuilderConsistent := by
  rcases exec_cases i s with ⟨o, hrespond, -⟩ | ⟨e, -, -, -, hrespond⟩ |
      ⟨-, u, v, hrespond, -, -, -, -, -, -, hkeeps⟩
  · obtain rfl := Host.Outcome.next.inj (hrespond.symm.trans hexec)
    exact builderConsistent_respond h o
  · obtain rfl := Host.Outcome.next.inj (hrespond.symm.trans hexec)
    exact h
  · obtain rfl := Host.Outcome.next.inj (hrespond.symm.trans hexec)
    exact builderConsistent_respond (hkeeps h) (.ok v)

/-! ### The built frame -/

theorem isExternal_toKind (k : PayloadKind) : k.toKind.isExternal = false := by cases k <;> rfl

/-- A frame in RES after B_BUILD is the one in the registers of a builder that was open. -/
theorem eq_builtFrame_of_bBuild {s t : State} {f : Frame} (hexec : exec .bBuild s = .next t)
    (hres : t.res = some (.frame f)) : s.bldValid = true ∧ f = builtFrame s := by
  cases hvalid : s.bldValid with
  | false =>
    obtain rfl := Host.Outcome.next.inj ((exec_bBuild_of_closed hvalid).symm.trans hexec)
    nomatch hres
  | true =>
    obtain rfl := Host.Outcome.next.inj ((exec_bBuild_of_open hvalid).symm.trans hexec)
    cases hres
    exact ⟨rfl, rfl⟩

theorem metadata_builtFrame (s : State) : (builtFrame s).body.metadata = s.bldMd := by
  rw [builtFrame, Body.metadata, parts?_payloadBody]

/-- R88's conditions for a canonical frame, with bit 8 as the builder invariant has it. -/
theorem canonical_builtFrame {s : State} (hbit : s.bldFlag.getLsbD 8 = s.bldMd.isSome) (hnarrow : s.bldFlag.toNat < 1024)
    (hdata : s.bldData ≠ some []) (hmd : MetadataFits s.bldMd) : (builtFrame s).Canonical := by
  refine ⟨hnarrow, ?_, ?_⟩
  · rw [builtFrame, Body.RoundTrips, parts?_payloadBody]
    exact ⟨hbit, hdata, hmd⟩
  · rw [builtFrame, kind_payloadBody, isExternal_toKind]

/-! ### The obligations -/

/-- Settles O46: a step waits, closes the builder by a reset, or runs a command, which keeps the invariant; and the
invariant is about the very registers that B_BUILD makes the frame of. -/
theorem builderInvariantIsKept : Obligations.BuilderInvariantIsKept := by
  refine ⟨fun s t hs hstep => ?_, fun s t f hs hexec hres => ?_⟩
  · rcases step_cases hstep with ⟨-, rfl⟩ | ⟨rest, -, rfl⟩ | ⟨r, rest, u, b, -, rfl, -, -, hrun⟩
    · exact hs
    · exact nofun
    · have haccepted : (acceptRequest r rest s).BuilderConsistent := hs
      have hended : u.BuilderConsistent := by
        rcases hrun with ⟨i, -, hexec⟩ | ⟨-, rfl⟩
        · exact builderConsistent_exec haccepted hexec
        · exact builderConsistent_respond haccepted _
      exact hended
  · obtain ⟨hopen, rfl⟩ := eq_builtFrame_of_bBuild hexec hres
    exact ⟨by rw [metadata_builtFrame]; exact hs hopen, canonical_builtFrame (hs hopen)⟩

/-- Settles O44: on an open builder each setter writes its registers, without one it is refused, and no other way to clear
bit 8 is left. -/
theorem settersUpdateFieldAndFlagTogether : Obligations.SettersUpdateFieldAndFlagTogether := by
  intro s
  refine ⟨fun hopen => ⟨?setMd, ?setData, ?setAllNone, ?setAllSome⟩, fun hclosed b data md => ?refused,
    fun i t hopen hset hexec hclear => ?clears⟩
  case setMd => exact exec_bSetMd_of_open hopen
  case setData => exact exec_bSetData_of_open hopen
  case setAllNone => exact fun data => exec_bSetAll_of_open hopen data none
  case setAllSome => exact fun data m => exec_bSetAll_of_open hopen data (some m)
  case refused =>
    exact ⟨congrArg _ (withBuilder_of_closed hclosed _), congrArg _ (withBuilder_of_closed hclosed _),
      congrArg _ (withBuilder_of_closed hclosed _)⟩
  case clears =>
    exact (bit8_stays_or_bSetAll_none hopen hset hexec).resolve_left (Bool.eq_false_iff.mp hclear)

/-- Settles O43: the kind is checked first, then the builder, and an accepted kind is written with the count it may have. -/
theorem bInitOpensABuilder : Obligations.BInitOpensABuilder := by
  intro sid flag initn s
  refine ⟨fun kind hkind => exec_bInit_of_not_payload hkind sid flag initn s,
    fun k hopen => exec_bInit_of_open hopen (payload?_toKind k) sid flag initn, fun k hclosed => ?_⟩
  rw [exec_bInit_of_closed hclosed, openBuilder]
  simp only [countedBuild_eq_true_iff]
  rfl

/-- Settles O45: the frame returned is the one in the registers, with the count of the kinds that may have one. -/
theorem bBuildReturnsTheFrameAndCloses : Obligations.BBuildReturnsTheFrameAndCloses := by
  refine fun s => ⟨fun hopen => ?_, fun hclosed => exec_bBuild_of_closed hclosed⟩
  rw [exec_bBuild_of_open hopen, builtFrame]
  simp only [countedBuild_eq_true_iff]
  rfl

end Sys2Proof.Machine
end

section
/-! PROOF. The exceptions (60_exceptions.md): which instruction is refused or faults, in the order of R97 and R96 (R93), which
ones end with a FrameDecodeError (R94), and when its cause is ILLEGAL_FRAME_TYPE (R90). -/

namespace Sys2Proof.Machine

/-! ### How a command that does not end OK leaves the state -/

/-- A command that does not end OK records one outcome in the state it started from. -/
theorem eq_respond_of_status_ne_ok {i : Instr} {s t : State} (hexec : exec i s = .next t) (hstatus : t.status ≠ .ok) :
    ∃ o, t = respond o s := by
  obtain ⟨o, u, hrespond, -, -, hchange⟩ := exec_eq_respond i s
  obtain rfl := Host.Outcome.next.inj (hrespond.symm.trans hexec)
  rcases hchange with ⟨v, rfl⟩ | rfl
  · exact absurd (respond_ok_status u v) hstatus
  · exact ⟨o, rfl⟩

/-- An instruction records the outcome it comes to. -/
theorem eq_of_outcome {i : Instr} {s u t : State} {o o' : CmdOutcome} (hrespond : exec i s = .next (respond o u))
    (hexec : exec i s = .next t) (houtcome : t.outcome = some o') : o = o' := by
  obtain rfl := Host.Outcome.next.inj (hrespond.symm.trans hexec)
  exact Option.some.inj ((respond_outcome u o).symm.trans houtcome)

theorem eq_endsErr_of_status {i : Instr} {s t : State} (hexec : exec i s = .next t) (hstatus : t.status = .err) :
    ∃ e, t = s.endsErr e := by
  obtain ⟨o, rfl⟩ := eq_respond_of_status_ne_ok hexec (by simp [hstatus])
  cases o with
  | err e => exact ⟨e, rfl⟩
  | ok | fault | refuse => nomatch hstatus

theorem eq_endsFault_of_status {i : Instr} {s t : State} (hexec : exec i s = .next t) (hstatus : t.status = .fault) :
    t = s.endsFault .encOversizeMetadata := by
  obtain ⟨o, rfl⟩ := eq_respond_of_status_ne_ok hexec (by simp [hstatus])
  cases o with
  | fault f => rfl
  | ok | err | refuse => nomatch hstatus

theorem eq_endsRefuse_of_status {i : Instr} {s t : State} (hexec : exec i s = .next t) (hstatus : t.status = .refuse) :
    ∃ r, t = s.endsRefuse r := by
  obtain ⟨o, rfl⟩ := eq_respond_of_status_ne_ok hexec (by simp [hstatus])
  cases o with
  | refuse r => exact ⟨r, rfl⟩
  | ok | err | fault => nomatch hstatus

/-- Only decoding instructions end with a FrameDecodeError (R89). -/
theorem family_eq_decoding_of_err {i : Instr} {s t : State} {e : ErrRec} (hexec : exec i s = .next t)
    (herr : t.outcome = some (.err e)) : i.family = .decoding := by
  rcases exec_cases i s with ⟨o, hrespond, -, hdecoding⟩ | ⟨_, -, -, -, hrespond⟩ | ⟨-, _, _, hrespond, -⟩
  · exact hdecoding e (eq_of_outcome hrespond hexec herr)
  · nomatch eq_of_outcome hrespond hexec herr
  · nomatch eq_of_outcome hrespond hexec herr

/-! ### The stop of a command

The refusals of R97 and the fault of R96 are one decision, made in the order of R93. `stopOf` writes it down from the
instruction's family, operands and sizes, and `stopped_of_exec` says that every instruction ends by it. -/

/-- The refusal or fault among the outcomes; an OK or a FrameDecodeError is none. -/
def CmdOutcome.stop? : CmdOutcome → Option CmdOutcome
  | .ok _ => none
  | .err _ => none
  | .fault f => some (.fault f)
  | .refuse r => some (.refuse r)

/-- The refusal or fault that the last command ended with. -/
def State.stopped (t : State) : Option CmdOutcome := t.outcome.bind CmdOutcome.stop?

/-- The refusal of a command that reads or writes n bytes (order 3 of R97). -/
def sizeStop (p : Params) (n : Nat) : Option CmdOutcome :=
  if tooLarge p n then some (.refuse .bufferTooLarge) else none

/-- B_INIT, which needs a builder that is not open (R97, order 4). -/
def opensBuilder : Instr → Bool
  | .bInit .. => true
  | _ => false

/-- The refusal or fault an instruction comes to: the rows of R97's table in their order, then R96. -/
def stopOf (i : Instr) (s : State) : Option CmdOutcome :=
  if i.family = .reserved then some (.refuse .reservedCommand)
  else if i.WellFormed s.params = false then some (.refuse .badOperand)
  else if i.bufferSize.any (tooLarge s.params) then some (.refuse .bufferTooLarge)
  else if opensBuilder i && s.bldValid then some (.refuse .builderBusy)
  else if i.needsBuilder && !s.bldValid then some (.refuse .noBuilder)
  else if oversizeMetadata i.metadataToEncode then some (.fault .encOversizeMetadata)
  else none

theorem stopped_eq_refuse_iff {t : State} {r : RefuseName} :
    t.stopped = some (.refuse r) ↔ t.outcome = some (.refuse r) := by
  unfold State.stopped
  rcases t.outcome with _ | (_ | _ | _ | _) <;> simp [CmdOutcome.stop?]

theorem stopped_eq_fault_iff {t : State} {f : FaultName} :
    t.stopped = some (.fault f) ↔ t.outcome = some (.fault f) := by
  unfold State.stopped
  rcases t.outcome with _ | (_ | _ | _ | _) <;> simp [CmdOutcome.stop?]

/-! ### The stop of each shared operation -/

section
variable (s : State)

@[simp] theorem stopped_respond (o : CmdOutcome) : (respond o s).stopped = o.stop? := by
  rw [State.stopped, respond_outcome, Option.bind_some]

theorem stopped_emitToOut (e : Emission) : (emitToOut e s).stopped = emissionStop s.params e := by
  unfold emitToOut emissionStop
  split_ifs <;> exact stopped_respond _ _

theorem stopped_emitToRes (e : Emission) : (emitToRes e s).stopped = emissionStop s.params e := by
  unfold emitToRes emissionStop
  split_ifs <;> exact stopped_respond _ _

theorem stopped_withTypedBody (b : Body) (k : State → State) :
    (withTypedBody b s k).stopped =
      if b.typed s.params = false then some (.refuse .badOperand) else (k s).stopped := by
  cases htyped : b.typed s.params <;> simp [withTypedBody, htyped, CmdOutcome.stop?]

theorem stopped_withBuilder (k : State → State) :
    (withBuilder s k).stopped = if !s.bldValid then some (.refuse .noBuilder) else (k s).stopped := by
  cases hvalid : s.bldValid <;> simp [withBuilder, hvalid, CmdOutcome.stop?]

end

theorem stop?_illegalOutcome (p : Params) (t : BitVec 6) (sid : BitVec 32) (flags : BitVec 10) (body : Bytes) :
    (illegalOutcome p t sid flags body).stop? = sizeStop p (6 + body.length) := by
  unfold illegalOutcome sizeStop
  split_ifs <;> rfl

theorem stop?_frameOutcome (p : Params) (k : Kind) (sid : BitVec 32) (flags : BitVec 10) (body : Bytes) :
    (frameOutcome p k sid flags body).stop? = sizeStop p (6 + body.length) := by
  unfold frameOutcome sizeStop
  split_ifs
  · rfl
  · split <;> rfl

theorem stop?_hdrDecOutcome (p : Params) (inp : Bytes) : (hdrDecOutcome p inp).stop? = sizeStop p inp.length := by
  unfold hdrDecOutcome sizeStop
  split_ifs <;> rfl

theorem stop?_plDecOutcome (p : Params) (flag : BitVec 16) (inp : Bytes) :
    (plDecOutcome p flag inp).stop? = sizeStop p inp.length := by
  unfold plDecOutcome sizeStop
  split_ifs
  · rfl
  · split <;> rfl

theorem stop?_bodyDecOutcome (p : Params) (k : Kind) (flag : BitVec 16) (inp : Bytes) :
    (bodyDecOutcome p k flag inp).stop? = sizeStop p inp.length := by
  unfold bodyDecOutcome sizeStop
  split_ifs
  · rfl
  · split <;> rfl

theorem stop?_splitOutcome (b : Body) :
    (splitOutcome b).stop? = if b.parts?.isSome then none else some (.refuse .badOperand) := by
  unfold splitOutcome
  cases b.parts? <;> rfl

/-- FRM_DEC is stopped by its own size alone: the row it runs counts the same bytes. -/
theorem stopped_of_frmDec {b : Bytes} {s t : State} (hexec : exec (.frmDec b) s = .next t) :
    t.stopped = sizeStop s.params b.length := by
  rcases Nat.lt_or_ge b.length 6 with hshort | hroom
  · unfold sizeStop
    by_cases hfits : Fits s.params b.length
    · obtain rfl := Host.Outcome.next.inj ((exec_frmDec_of_short hfits hshort).symm.trans hexec)
      simp [(fits_iff_not_tooLarge _ _).mp hfits, State.stopped, CmdOutcome.stop?]
    · obtain rfl := Host.Outcome.next.inj ((exec_frmDec_of_not_fits hfits).symm.trans hexec)
      simp [(not_fits_iff_tooLarge _ _).mp hfits, State.stopped, CmdOutcome.stop?]
  · have hsize : 6 + (b.drop 6).length = b.length := by
      rw [List.length_drop]
      omega
    rw [exec_frmDec_eq_frameRow hroom] at hexec
    rw [← hsize]
    cases hkind : kindOf (readHeader b).type with
    | some k =>
      rw [← code_kindOf _ k hkind, frameRow_code, exec_frameOfKind] at hexec
      obtain rfl := Host.Outcome.next.inj hexec
      rw [stopped_respond, stop?_frameOutcome]
    | none =>
      rw [exec_frameRow_of_no_kind _ _ _ hkind] at hexec
      obtain rfl := Host.Outcome.next.inj hexec
      rw [stopped_respond, stop?_illegalOutcome]

/-- The kind comes before the builder (R97, C9). -/
theorem stopped_of_bInit {kind : Kind} {sid : BitVec 32} {flag : BitVec 16} {initn : BitVec 32} {s t : State}
    (hexec : exec (.bInit kind sid flag initn) s = .next t) : t.stopped = stopOf (.bInit kind sid flag initn) s := by
  obtain rfl := Host.Outcome.next.inj hexec
  cases hkind : kind.payload? <;> cases hvalid : s.bldValid <;>
    simp [stopOf, Instr.family, Instr.WellFormed, Instr.bufferSize, Instr.needsBuilder, Instr.metadataToEncode,
      opensBuilder, oversizeMetadata, hkind, hvalid, CmdOutcome.stop?]

/-- An instruction is refused or faults exactly as R97's table and R96 say, the earlier row first. -/
theorem stopped_of_exec {i : Instr} {s t : State} (hexec : exec i s = .next t) : t.stopped = stopOf i s := by
  cases i
  case frmDec b => exact stopped_of_frmDec hexec
  case bInit => exact stopped_of_bInit hexec
  all_goals obtain rfl := Host.Outcome.next.inj hexec
  case hdrDec => exact (stopped_respond _ _).trans (stop?_hdrDecOutcome _ _)
  case plDec => exact (stopped_respond _ _).trans (stop?_plDecOutcome _ _ _)
  case bodyDec => exact (stopped_respond _ _).trans (stop?_bodyDecOutcome _ _ _ _)
  case frameIllegal00 | frameIllegal0F | frameIllegal10 | frameIllegal20 =>
    exact (stopped_respond _ _).trans (stop?_illegalOutcome _ _ _ _ _)
  case plEnc => rw [stopped_emitToOut, stopOf, Instr.bufferSize, length_wirePayload]; rfl
  case bodyEnc => rw [stopped_withTypedBody, stopped_emitToOut, stopOf, Instr.bufferSize, length_wireBody]; rfl
  case frmWrite => rw [stopped_withTypedBody, stopped_emitToOut, stopOf, Instr.bufferSize, length_wireFrame]; rfl
  case frmEnc => rw [stopped_withTypedBody, stopped_emitToRes, stopOf, Instr.bufferSize, length_wireFrame]; rfl
  case typeOf | bodyLen | frmLen => exact stopped_withTypedBody _ _ _
  case split b =>
    rw [stopped_withTypedBody, stopped_respond, stop?_splitOutcome, stopOf, Instr.WellFormed]
    cases b.parts? <;> cases b.typed s.params <;> rfl
  case bSetMd | bSetData | bSetAll | bBuild => exact stopped_withBuilder _ _
  case hdrEnc | hasNext | hasComplete | plLen | cmdReserved00 | cmdReserved16 | cmdReserved18 => rfl
  -- what is left are the frame rows of the kinds
  all_goals exact (stopped_respond _ _).trans (stop?_frameOutcome _ _ _ _ _)

/-! ### The rows of R97's table exclude one another -/

section
variable {i : Instr} {p : Params}

/-- A reserved code has no operand that could be ill typed. -/
theorem wellFormed_of_reserved (h : i.family = .reserved) : i.WellFormed p = true := by
  cases i with
  | cmdReserved00 | cmdReserved16 | cmdReserved18 => rfl
  | _ => nomatch h

/-- A reserved code has no size. -/
theorem bufferSize_of_reserved (h : i.family = .reserved) : i.bufferSize = none := by
  cases i with
  | cmdReserved00 | cmdReserved16 | cmdReserved18 => rfl
  | _ => nomatch h

/-- The commands on an open builder take any value of their operands' types, and have no size. -/
theorem facts_of_needsBuilder (h : i.needsBuilder = true) :
    i.family = .building ∧ i.WellFormed p = true ∧ i.bufferSize = none ∧ opensBuilder i = false := by
  cases i with
  | bSetMd | bSetData | bSetAll | bBuild => exact ⟨rfl, rfl, rfl, rfl⟩
  | _ => nomatch h

/-- Only encoding commands have metadata to encode. -/
theorem facts_of_oversizeMetadata (h : oversizeMetadata i.metadataToEncode = true) :
    i.family ≠ .reserved ∧ opensBuilder i = false ∧ i.needsBuilder = false := by
  cases i with
  | plEnc | bodyEnc | frmWrite | frmEnc => exact ⟨nofun, rfl, rfl⟩
  | _ => nomatch h

theorem payload?_eq_some_iff (kind : Kind) (k : PayloadKind) : kind.payload? = some k ↔ kind = k.toKind := by
  constructor
  · cases kind <;> cases k <;> simp [Kind.payload?, PayloadKind.toKind]
  · rintro rfl
    exact payload?_toKind k

/-- A well-formed command that opens a builder is B_INIT with a payload kind (R83). -/
theorem opensBuilder_wellFormed_iff :
    opensBuilder i = true ∧ i.WellFormed p = true ↔
      ∃ k sid flag initn, i = .bInit (PayloadKind.toKind k) sid flag initn := by
  constructor
  · rintro ⟨hopens, hwf⟩
    cases i with
    | bInit kind sid flag initn =>
      obtain ⟨k, hk⟩ := Option.isSome_iff_exists.mp hwf
      exact ⟨k, sid, flag, initn, by rw [(payload?_eq_some_iff kind k).mp hk]⟩
    | _ => nomatch hopens
  · rintro ⟨k, sid, flag, initn, rfl⟩
    exact ⟨rfl, by rw [Instr.WellFormed, payload?_toKind, Option.isSome_some]⟩

theorem facts_of_opensBuilder (h : opensBuilder i = true) : i.family = .building ∧ i.bufferSize = none := by
  cases i with
  | bInit => exact ⟨rfl, rfl⟩
  | _ => nomatch h

theorem any_tooLarge_iff (o : Option Nat) : o.any (tooLarge p) = true ↔ ∃ n, o = some n ∧ ¬ Fits p n := by
  simp only [Option.any_eq_true, not_fits_iff_tooLarge]

theorem any_tooLarge_eq_false_iff (o : Option Nat) : o.any (tooLarge p) = false ↔ ∀ n, o = some n → Fits p n := by
  cases o <;> simp [fits_iff_not_tooLarge]

end

/-! ### Each row of the table -/

section
variable {i : Instr} {s : State}

theorem stopOf_eq_reservedCommand_iff :
    stopOf i s = some (.refuse .reservedCommand) ↔ i.family = .reserved := by
  unfold stopOf
  split_ifs <;> simp_all

theorem stopOf_eq_badOperand_iff :
    stopOf i s = some (.refuse .badOperand) ↔ i.WellFormed s.params = false := by
  have hreserved := wellFormed_of_reserved (i := i) (p := s.params)
  unfold stopOf
  split_ifs <;> simp_all

theorem stopOf_eq_bufferTooLarge_iff :
    stopOf i s = some (.refuse .bufferTooLarge) ↔
      i.WellFormed s.params = true ∧ ∃ n, i.bufferSize = some n ∧ ¬ Fits s.params n := by
  have hreserved := bufferSize_of_reserved (i := i)
  rw [← any_tooLarge_iff]
  unfold stopOf
  split_ifs <;> simp_all

theorem stopOf_eq_builderBusy_iff :
    stopOf i s = some (.refuse .builderBusy) ↔
      (∃ k sid flag initn, i = .bInit (PayloadKind.toKind k) sid flag initn) ∧ s.bldValid = true := by
  rw [← opensBuilder_wellFormed_iff (p := s.params)]
  refine ⟨fun hstop => ?_, fun ⟨⟨hopens, hwf⟩, hvalid⟩ => ?_⟩
  · unfold stopOf at hstop
    split_ifs at hstop <;> simp_all
  · obtain ⟨hfamily, hsize⟩ := facts_of_opensBuilder hopens
    simp [stopOf, hfamily, hwf, hsize, hopens, hvalid]

theorem stopOf_eq_noBuilder_iff :
    stopOf i s = some (.refuse .noBuilder) ↔ i.needsBuilder = true ∧ s.bldValid = false := by
  refine ⟨fun hstop => ?_, fun ⟨hneeds, hclosed⟩ => ?_⟩
  · unfold stopOf at hstop
    split_ifs at hstop <;> simp_all
  · obtain ⟨hfamily, hwf, hsize, hopens⟩ := facts_of_needsBuilder (p := s.params) hneeds
    simp [stopOf, hfamily, hwf, hsize, hopens, hneeds, hclosed]

theorem stopOf_eq_oversizeMetadata_iff :
    stopOf i s = some (.fault .encOversizeMetadata) ↔
      i.WellFormed s.params = true ∧ (∀ n, i.bufferSize = some n → Fits s.params n) ∧
        ¬ MetadataFits i.metadataToEncode := by
  have hoversize := facts_of_oversizeMetadata (i := i)
  rw [← any_tooLarge_eq_false_iff, metadataFits_iff, Bool.not_eq_false]
  unfold stopOf
  split_ifs <;> simp_all

end

/-! ### ILLEGAL_FRAME_TYPE -/

/-- A payload is too short or shorter than its length says; it has no frame type (R90). -/
theorem decodePayload_ne_illegalFrameType (flag : BitVec 16) (inp : Bytes) (hdr h : Option Header) :
    decodePayload flag inp hdr ≠ .error ⟨.illegalFrameType, h⟩ := by
  cases hbit : flag.getLsbD 8 with
  | false => simp [decodePayload_of_clear hbit]
  | true =>
    rcases decodePayload_cases_of_set hbit inp hdr with hd | hd | ⟨m, d, hd⟩ <;> simp [hd]

section
variable {p : Params} {h : Option Header}

theorem hdrDecOutcome_ne_illegalFrameType {inp : Bytes} : hdrDecOutcome p inp ≠ .err ⟨.illegalFrameType, h⟩ := by
  unfold hdrDecOutcome
  split_ifs <;> simp

theorem plDecOutcome_ne_illegalFrameType {flag : BitVec 16} {inp : Bytes} :
    plDecOutcome p flag inp ≠ .err ⟨.illegalFrameType, h⟩ := by
  have hcause := decodePayload_ne_illegalFrameType flag inp none h
  unfold plDecOutcome
  split_ifs
  · simp
  · split <;> simp_all

theorem bodyDecOutcome_ne_illegalFrameType {k : Kind} {flag : BitVec 16} {inp : Bytes} :
    bodyDecOutcome p k flag inp ≠ .err ⟨.illegalFrameType, h⟩ := by
  have hcause := decodeBody_cause p k flag inp none h
  unfold bodyDecOutcome
  split_ifs
  · simp
  · split <;> simp_all

theorem frameOutcome_ne_illegalFrameType {k : Kind} {sid : BitVec 32} {f : BitVec 10} {body : Bytes} :
    frameOutcome p k sid f body ≠ .err ⟨.illegalFrameType, h⟩ := by
  have hcause := decodeBody_cause p k (f.setWidth 16) body (some ⟨sid, k.code, f⟩) h
  unfold frameOutcome
  split_ifs
  · simp
  · split <;> simp_all

end

/-- A buffer whose type code names a kind ends as that kind's frame does, and no frame of a kind reports
ILLEGAL_FRAME_TYPE. -/
theorem kindOf_eq_none_of_illegalFrameType {b : Bytes} {s t : State} {h : Option Header} (hroom : 6 ≤ b.length)
    (hexec : exec (.frmDec b) s = .next t) (herr : t.outcome = some (.err ⟨.illegalFrameType, h⟩)) :
    kindOf (readHeader b).type = none := by
  cases hkind : kindOf (readHeader b).type with
  | none => rfl
  | some k =>
    rw [exec_frmDec_eq_frameRow hroom, ← code_kindOf _ k hkind, frameRow_code] at hexec
    exact absurd (eq_of_outcome (exec_frameOfKind ..) hexec herr) frameOutcome_ne_illegalFrameType

/-- A command that is not reserved is the one its code and operand fields encode (R52). -/
theorem encode_of_decodeCommand {code : BitVec 5} {ops : List Operand} {i : Instr}
    (hdecode : decodeCommand code ops = .ok i) (hfamily : i.family ≠ .reserved) : encode i = .command code ops := by
  unfold decodeCommand at hdecode
  split at hdecode
  case h_1 | h_23 | h_24 | h_25 =>
    obtain rfl := Except.ok.inj hdecode
    exact absurd rfl hfamily
  all_goals
    rename_i hcode
    split at hdecode
    · obtain rfl := Except.ok.inj hdecode
      exact congrArg (Encoded.command · _) (BitVec.eq_of_toNat_eq hcode.symm)
    · nomatch hdecode

/-- Among the commands FRM_DEC alone, whose code is 0x0C, reports ILLEGAL_FRAME_TYPE (R90). -/
theorem code_eq_of_illegalFrameType {i : Instr} {s t : State} {h : Option Header} {code : BitVec 5}
    {ops : List Operand} (hencode : encode i = .command code ops)
    (hexec : exec i s = .next t) (herr : t.outcome = some (.err ⟨.illegalFrameType, h⟩)) : code = 0x0C#5 := by
  have hfamily := family_eq_decoding_of_err hexec herr
  cases i with
  | frmDec b => exact (Encoded.command.inj hencode).1.symm
  | hdrDec => exact absurd (eq_of_outcome rfl hexec herr) hdrDecOutcome_ne_illegalFrameType
  | plDec => exact absurd (eq_of_outcome rfl hexec herr) plDecOutcome_ne_illegalFrameType
  | bodyDec => exact absurd (eq_of_outcome rfl hexec herr) bodyDecOutcome_ne_illegalFrameType
  | frameSetup | frameLease | frameKeepalive | frameRequestResponse | frameRequestFnf | frameRequestStream |
      frameRequestChannel | frameRequestN | frameCancel | framePayload | frameError | frameMetadataPush | frameResume |
      frameResumeOk | frameIllegal00 | frameIllegal0F | frameIllegal10 | frameIllegal20 =>
    nomatch hencode
  | _ => nomatch hfamily

/-! ### The obligations -/

/-- Settles O51: an outcome that is an error leaves the state it is recorded in, and `exec_cases` says who records one. -/
theorem onlyDecodingEndsWithAPreciseError : Obligations.OnlyDecodingEndsWithAPreciseError := by
  intro i s t hexec hstatus
  obtain ⟨e, rfl⟩ := eq_endsErr_of_status hexec hstatus
  exact ⟨family_eq_decoding_of_err hexec rfl, e, rfl⟩

/-- Settles O52: the fault is the last row of `stopOf`, and it is recorded in the state the command started from. -/
theorem faultExactlyOnOversizeMetadata : Obligations.FaultExactlyOnOversizeMetadata := by
  intro i s t hexec
  refine ⟨?_, eq_endsFault_of_status hexec⟩
  rw [← stopped_eq_fault_iff, stopped_of_exec hexec, stopOf_eq_oversizeMetadata_iff]

/-- Settles O53: the refusals are the rows of `stopOf`, and each is recorded in the state the command started from. -/
theorem refusalsExactlyInTheirOrder : Obligations.RefusalsExactlyInTheirOrder := by
  intro i s t hexec
  simp only [← stopped_eq_refuse_iff, stopped_of_exec hexec]
  exact ⟨stopOf_eq_reservedCommand_iff, stopOf_eq_badOperand_iff, stopOf_eq_bufferTooLarge_iff,
    stopOf_eq_builderBusy_iff, stopOf_eq_noBuilder_iff, eq_endsRefuse_of_status hexec⟩

/-- Settles O35: a type code that names no kind is O28's, a frame of a kind never reports this cause, and the other decode
commands do not either. -/
theorem illegalFrameTypeExactlyOnCodesWithoutAKind : Obligations.IllegalFrameTypeExactlyOnCodesWithoutAKind := by
  obtain ⟨-, -, hnoKind⟩ := typeCodesNameTheFourteenKinds
  constructor
  · intro b0 b1 b2 b3 b4 b5 rest s hfits
    have hcode : (b4.extractLsb' 2 6).toNat = b4.toNat / 4 := by
      have := b4.isLt
      rw [BitVec.extractLsb'_toNat, Nat.shiftRight_eq_div_pow]
      omega
    have hkind : (b4.toNat / 4 = 0 ∨ 0x0F ≤ b4.toNat / 4) ↔ kindOf (b4.extractLsb' 2 6) = none := by
      rw [hnoKind, ← BitVec.toNat_inj, hcode]
      rfl
    rw [hkind]
    refine ⟨fun hnone => ?_, fun hends => ?_⟩
    · obtain ⟨-, hframe⟩ := frmDecDecodesOneFrame
      obtain ⟨hillegal, -⟩ := hframe b0 b1 b2 b3 b4 b5 rest s hfits
      exact hillegal hnone
    · have hnone := kindOf_eq_none_of_illegalFrameType (by simp) hends rfl
      rwa [readHeader_cons] at hnone
  · intro code ops i h s t hdecode hexec herr
    have hfamily := family_eq_decoding_of_err hexec herr
    exact code_eq_of_illegalFrameType (encode_of_decodeCommand hdecode (by simp [hfamily])) hexec herr

end Sys2Proof.Machine
end

section
/-! PROOF. Reset and hazards (70_reset_and_hazards.md): a reset event puts every register in its reset value (R102, R104), and
the bytes of a buffer behind one frame become data or message (R105). -/

namespace Sys2Proof.Machine

/-! ### Bytes behind a body -/

/-- Two bodies of one payload kind that are equal have equal parts, and stay equal under any other data. -/
theorem payloadBody_inj {k : PayloadKind} {n n' : Option (BitVec 32)} {md md' d d' : Option Bytes}
    (h : k.body n md d = k.body n' md' d') :
    md = md' ∧ d = d' ∧ ∀ x, k.body n md x = k.body n' md' x := by
  cases k <;> simp_all [PayloadKind.body]

section
variable {p : Params} {flag : BitVec 16} {inp : Bytes} {hdr : Option Header} {k : PayloadKind} {n : Option (BitVec 32)}
  {md data : Option Bytes}

theorem decodePlainBody_append (h : decodePlainBody k flag inp hdr = .ok (k.body n md data)) (extra : Bytes) :
    decodePlainBody k flag (inp ++ extra) hdr = .ok (k.body n md (Wire.data (data.getD [] ++ extra))) := by
  obtain ⟨md', d', hpayload, hbody⟩ := decodePlainBody_accepts h
  obtain ⟨rfl, rfl, hother⟩ := payloadBody_inj hbody
  obtain ⟨-, -, happend⟩ := decodePayload_accepts hpayload
  rw [decodePlainBody_eq_map, happend, hother]
  rfl

/-- The count, where there is one, is in front of the payload and does not see what is behind it (R69). -/
theorem decodeCountedBody_append (h : decodeCountedBody p k flag inp hdr = .ok (k.body n md data)) (extra : Bytes) :
    decodeCountedBody p k flag (inp ++ extra) hdr = .ok (k.body n md (Wire.data (data.getD [] ++ extra))) := by
  rcases decodeCountedBody_accepts h with ⟨hprefix, -⟩ | ⟨hprefix, n', rest, md', d', rfl, hpayload, hbody⟩
  · rw [decodeCountedBody_of_no_prefix hprefix] at h ⊢
    exact decodePlainBody_append h extra
  · obtain ⟨rfl, rfl, hother⟩ := payloadBody_inj hbody
    obtain ⟨-, -, happend⟩ := decodePayload_accepts hpayload
    rw [List.append_assoc, decodeCountedBody_eq_map hprefix, happend, hother]
    rfl

/-- Bytes behind the body of a payload kind become data (R105). -/
theorem decodeBody_append_of_payload {kind : Kind} (h : decodeBody p kind flag inp hdr = .ok (k.body n md data))
    (extra : Bytes) :
    decodeBody p kind flag (inp ++ extra) hdr = .ok (k.body n md (Wire.data (data.getD [] ++ extra))) := by
  obtain ⟨hkind, -⟩ := decodeBody_accepts h
  obtain rfl : k.toKind = kind := (kind_payloadBody k n md data).symm.trans hkind
  cases hcount : k.hasCount with
  | false =>
    rw [decodeBody_of_plain hcount] at h ⊢
    exact decodePlainBody_append h extra
  | true =>
    rw [decodeBody_of_counted hcount] at h ⊢
    exact decodeCountedBody_append h extra

/-- Bytes behind the body of an Error frame become message (R105). -/
theorem decodeBody_append_of_error {kind : Kind} {code : BitVec 32} {message : Bytes}
    (h : decodeBody p kind flag inp hdr = .ok (.error code message)) (extra : Bytes) :
    decodeBody p kind flag (inp ++ extra) hdr = .ok (.error code (message ++ extra)) := by
  obtain ⟨rfl, -, -, hwhole, -⟩ := decodeBody_accepts h
  obtain rfl : Wire.u32 code ++ message = inp := hwhole (.inr rfl)
  rw [List.append_assoc]
  exact decodeErrorBody_wireU32_append code (message ++ extra)

end

/-! ### Bytes behind a frame -/

/-- The header is in the first six bytes (R44). -/
theorem readHeader_append {b : Bytes} (hroom : 6 ≤ b.length) (extra : Bytes) :
    readHeader (b ++ extra) = readHeader b := by
  rw [readHeader, readHeader, memRead_append_left b extra 0 4 (by omega), memRead_append_left b extra 4 2 hroom]

/-- A buffer within the size limit, with a header whose type code names a kind and a body of that kind behind it, decodes to
the frame of the two (R78). -/
theorem exec_frmDec_of_decodeBody {b : Bytes} {k : Kind} {body : Body} {s : State} (hfits : Fits s.params b.length)
    (hroom : 6 ≤ b.length) (hcode : k.code = (readHeader b).type)
    (hdecode : decodeBody s.params k ((readHeader b).flag.setWidth 16) (b.drop 6) (some (readHeader b)) = .ok body) :
    exec (.frmDec b) s =
      .next (s.endsOk (some (.frame ⟨(readHeader b).streamId, (readHeader b).flag.setWidth 16, body⟩))) := by
  have hsize : Fits s.params (6 + (b.drop 6).length) := Fits_of_le hfits (by rw [List.length_drop]; omega)
  have hheader : readHeader b = ⟨(readHeader b).streamId, k.code, (readHeader b).flag⟩ := by rw [hcode]
  rw [hheader] at hdecode
  rw [exec_frmDec_eq_frameRow hroom, ← hcode, frameRow_code]
  exact exec_frameOfKind_of_ok hsize hdecode

/-- Bytes behind a frame that FRM_DEC accepts are bytes behind its body: the frame keeps its stream id and flag, and its
body is what the body decode makes of the longer run. -/
theorem exec_frmDec_append {b extra : Bytes} {f : Frame} {body : Body} {s t : State} (hdec : exec (.frmDec b) s = .next t)
    (hres : t.res = some (.frame f)) (hfits : Fits s.params (b ++ extra).length)
    (hbody : ∀ k inp hdr, decodeBody s.params k f.flag inp hdr = .ok f.body →
      decodeBody s.params k f.flag (inp ++ extra) hdr = .ok body) :
    exec (.frmDec (b ++ extra)) s = .next (s.endsOk (some (.frame ⟨f.streamId, f.flag, body⟩))) := by
  obtain ⟨-, hroom, -, hsid, hflag, k, hcode, hdecode⟩ := exec_frmDec_accepts hdec hres
  have hheader := readHeader_append hroom extra
  have hlonger := hbody k _ _ hdecode
  rw [← List.drop_append_of_le_length hroom, hflag, ← hheader] at hlonger
  rw [hsid, hflag, ← hheader]
  exact exec_frmDec_of_decodeBody hfits (Nat.le_trans hroom (by simp)) (by rw [hheader, hcode]) hlonger

/-! ### The obligations -/

/-- Settles O42: the header and a body of the same kind are in front of the extra bytes, and the body decode of a payload kind
or of Error runs to the end of the buffer. -/
theorem bytesAfterAFrameBecomeDataOrMessage : Obligations.BytesAfterAFrameBecomeDataOrMessage := by
  constructor
  · intro b extra sid flag k n md data s t hdec hres hfits
    exact exec_frmDec_append hdec hres hfits fun _ _ _ hbody => decodeBody_append_of_payload hbody extra
  · intro b extra sid flag code message s t hdec hres hfits
    exact exec_frmDec_append hdec hres hfits fun _ _ _ hbody => decodeBody_append_of_error hbody extra

/-- Settles O1: a reset event is `resetRegisters` of the state without it, which keeps only what is the caller's. -/
theorem resetPutsEveryRegisterInItsResetValue : Obligations.ResetPutsEveryRegisterInItsResetValue := by
  exact ⟨⟨rfl, rfl, rfl, rfl, rfl, rfl⟩, fun s rest hport => ⟨_, step_reset s rest hport, by simp⟩⟩

end Sys2Proof.Machine
end
